-- ==== Sys2Proof/Word.lean ====
section
/-!
DEFINITION. The value types of the block: spec/00_scope.md rules R5, R7 and R8. Every one is unsigned; bit 0 is the
least significant bit (R7). Their arithmetic is that of `BitVec`; the operations that follow a rule of the spec stand
in Sys2Proof/Machine/.
-/

namespace Sys2Proof

/-- R5: a byte is 8 bits. -/
abbrev Byte := BitVec 8

/-- R5, R9: a Word is 16 bits, unsigned, valid range [0, 65535]. -/
abbrev Word := BitVec 16

/-- R5, R9: a Checksum is an 8-bit unsigned integer computed from a Word. -/
abbrev Checksum := BitVec 8

/-- R8, R44: the 32-bit pattern of an IEEE-754 binary32 number. -/
abbrev Pattern32 := BitVec 32

end Sys2Proof
end

