-- ==== Sys2Proof/Config.lean ====
section
/-!
DEFINITION. What an implementation fixes: the parameters of spec/00_scope.md rule R6, and the free values the spec
leaves unspecified (spec/10_state.md rule R19).
-/

namespace Sys2Proof

/-- R6, R88: what `PARSE` does when `len(raw) != 3 × expected_word_count`. -/
inductive LenPolicy where
  /-- The operation ends with `LENGTH_MISMATCH`; the default. -/
  | strict
  /-- The mismatch is flagged and the whole triplets present are decoded. -/
  | lenient
deriving DecidableEq, Repr

/-- The parameters of R6, fixed before the first operation and never changed by one (R14, R122). A bound of `none` is
"unbounded", which is R6's default. They stand in `State` so that a statement about every state is a statement about
every implementation R6 allows (log 3). -/
structure Params where
  /-- `OPW`: width in bits of each signed integer operand of `BUILD`; `none` takes the operand as a mathematical
  integer. -/
  opw : Option Nat
  /-- `MAX_ARGS`: the most arguments one `BUILD` request may carry. -/
  maxArgs : Option Nat
  /-- `MAX_WORDS`: the largest `expected_word_count` of one `PARSE` request. -/
  maxWords : Option Nat
  /-- `MAX_RAW`: the largest length in bytes of `raw` of one `PARSE` request. -/
  maxRaw : Option Nat
  /-- `LEN_POLICY`. -/
  lenPolicy : LenPolicy
deriving DecidableEq, Repr

/-- The defaults of R6: operands as integers, every length unbounded, `STRICT`. -/
def Params.default : Params :=
  { opw := none, maxArgs := none, maxWords := none, maxRaw := none, lenPolicy := .strict }

/-- A quantity does not exceed a bound that may be absent. -/
def within (bound : Option Nat) (n : Nat) : Bool :=
  match bound with
  | none => true
  | some m => decide (n ≤ m)

/-- R6, D6: what a realisation must provide: the least values 17, 1, 6 and 18 lie within `OPW`, `MAX_ARGS`,
`MAX_WORDS` and `MAX_RAW`. -/
def Params.legal (p : Params) : Bool :=
  within p.opw 17 && within p.maxArgs 1 && within p.maxWords 6 && within p.maxRaw 18

/-- FREE VALUE (log 8). R19: `crc` has an unspecified value between operations. The argument is `State.fresh`. -/
opaque Config.freeCrc : Nat → Byte

/-- FREE VALUE (log 8). R19: `idx` has an unspecified value between operations. The argument is `State.fresh`. -/
opaque Config.freeIdx : Nat → Nat

end Sys2Proof
end

