-- ==== Sys2Proof/Syntax.lean ====
section
/-!
DEFINITION. The operations of the block as syntax: one constructor per row of spec/opcode_table.json
(spec/30_encoding.md rules R36 and R37).
-/

namespace Sys2Proof

/-- One operation with its operands (R36, R37). `BUILD` carries integers of any value, because the operation itself
validates them (R76); every other scalar operand is typed. -/
inductive Instr where
  /-- `CRC8 w`, op 0, format W (R55). -/
  | crc8 (word : Word)
  /-- `CRCCHK w, c`, op 1, format WC (R58). -/
  | crcchk (word : Word) (crcIn : Byte)
  /-- `TOBYTES w`, op 2, format W (R65). -/
  | tobytes (word : Word)
  /-- `FROMBYTES hi, lo`, op 3, format BB (R67). -/
  | frombytes (hi : Byte) (lo : Byte)
  /-- `W2F high, low`, op 4, format WW (R69). -/
  | w2f (high : Word) (low : Word)
  /-- `BUILD cmd, [a0, a1, ...]`, op 5, format CA (R75). -/
  | build (command : Int) (arguments : List Int)
  /-- `PARSE [b0 b1 ...], n`, op 6, format RN (R85). -/
  | parse (raw : List Byte) (expectedWordCount : Nat)
  /-- op 7, reserved: names no operation (R39). -/
  | reserved7
deriving DecidableEq, Repr

end Sys2Proof
end

