-- ==== Sys2Proof/Decode.lean ====
section
/-!
DEFINITION. Requests as they stand at the block's port, and the decoder from a request to an operation
(spec/30_encoding.md rules R35 to R39, R45). The spec fixes the 3-bit selector and the operand fields of each format by
name and type, and no position of a field on a port (R37): a request is therefore a record whose fields are named, and
the port is wider than the types (integers), so that the refusals of R37, R39, R59, R66 and R67 are modelled (log 5).
-/

namespace Sys2Proof

/-- The operand fields of a request, by format (R37). Every scalar is an integer as it stands at the port. -/
inductive Operands where
  /-- Format W. -/
  | w (word : Int)
  /-- Format WC. -/
  | wc (word : Int) (crcIn : Int)
  /-- Format BB. -/
  | bb (hi : Int) (lo : Int)
  /-- Format WW. -/
  | ww (high : Int) (low : Int)
  /-- Format CA. -/
  | ca (command : Int) (arguments : List Int)
  /-- Format RN. -/
  | rn (raw : List Int) (expectedWordCount : Int)
  /-- No operand fields. -/
  | none
deriving DecidableEq, Repr

/-- R35: a request is a record `(op, operands)`; R36: `op` is 3 bits. -/
structure Request where
  op : BitVec 3
  operands : Operands
deriving DecidableEq, Repr

/-- Why a request names no operation with operands of their types: the model gives it no meaning (R37, R59, R66, R67). -/
inductive DecodeError where
  /-- The operand fields are not those of the operation's format. -/
  | wrongFormat
  /-- A `Word` operand lies outside [0, 65535]. -/
  | wordOutOfRange
  /-- A `Byte` operand lies outside [0, 255]. -/
  | byteOutOfRange
  /-- `expected_word_count` is negative. -/
  | negativeCount
deriving DecidableEq, Repr

/-- The names the 3-bit selector can take (R36). -/
inductive Op where
  | crc8
  | crcchk
  | tobytes
  | frombytes
  | w2f
  | build
  | parse
  | reserved7
deriving DecidableEq, Repr

/-- The selector's numbers (R36). -/
def Op.code : Op → BitVec 3
  | .crc8 => 0b000#3
  | .crcchk => 0b001#3
  | .tobytes => 0b010#3
  | .frombytes => 0b011#3
  | .w2f => 0b100#3
  | .build => 0b101#3
  | .parse => 0b110#3
  | .reserved7 => 0b111#3

/-- The operation a selector names (R36). -/
def Op.ofCode (op : BitVec 3) : Op :=
  match op.toNat with
  | 0 => .crc8
  | 1 => .crcchk
  | 2 => .tobytes
  | 3 => .frombytes
  | 4 => .w2f
  | 5 => .build
  | 6 => .parse
  | _ => .reserved7

/-- R45: an integer is a valid Word exactly when it lies in [0, 65535]; then the Word is the integer itself, never a
reduction of it. -/
def asWord (v : Int) : Option Word :=
  if 0 ≤ v ∧ v ≤ 65535 then some (BitVec.ofNat 16 v.toNat) else none

/-- R37: an integer is a Byte exactly when it lies in [0, 255]. -/
def asByte (v : Int) : Option Byte :=
  if 0 ≤ v ∧ v ≤ 255 then some (BitVec.ofNat 8 v.toNat) else none

/-- R37: a sequence of Bytes, when every element is one. -/
def asBytes : List Int → Option (List Byte)
  | [] => some []
  | v :: rest =>
    match asByte v, asBytes rest with
    | some b, some bs => some (b :: bs)
    | _, _ => Option.none

/-- R37: a count is a non-negative integer. -/
def asCount (v : Int) : Option Nat :=
  if 0 ≤ v then some v.toNat else none

/-- A `Word` field of a request, or the refusal R59 and R66 ask for. -/
def wordField (v : Int) : Except DecodeError Word :=
  match asWord v with
  | some w => .ok w
  | none => .error .wordOutOfRange

/-- A `Byte` field of a request, or the refusal R67 asks for. -/
def byteField (v : Int) : Except DecodeError Byte :=
  match asByte v with
  | some b => .ok b
  | none => .error .byteOutOfRange

/-- The `raw` field of a request: a sequence of Bytes (R37). -/
def bytesField (vs : List Int) : Except DecodeError (List Byte) :=
  match asBytes vs with
  | some bs => .ok bs
  | none => .error .byteOutOfRange

/-- The `expected_word_count` field of a request: a natural number (R37). -/
def countField (v : Int) : Except DecodeError Nat :=
  match asCount v with
  | some n => .ok n
  | none => .error .negativeCount

/-- R36, R37: the operation a request asks for. Total: every request decodes or is refused by name. A request with
`op = 7` is the reserved one whatever its operands (R39). -/
def decode (r : Request) : Except DecodeError Instr :=
  match Op.ofCode r.op, r.operands with
  | .crc8, .w word => do
    let word ← wordField word
    return .crc8 word
  | .crcchk, .wc word crcIn => do
    let word ← wordField word
    let crcIn ← byteField crcIn
    return .crcchk word crcIn
  | .tobytes, .w word => do
    let word ← wordField word
    return .tobytes word
  | .frombytes, .bb hi lo => do
    let hi ← byteField hi
    let lo ← byteField lo
    return .frombytes hi lo
  | .w2f, .ww high low => do
    let high ← wordField high
    let low ← wordField low
    return .w2f high low
  | .build, .ca command arguments => return .build command arguments
  | .parse, .rn raw expectedWordCount => do
    let raw ← bytesField raw
    let expectedWordCount ← countField expectedWordCount
    return .parse raw expectedWordCount
  | .reserved7, _ => return .reserved7
  | _, _ => .error .wrongFormat

/-- The selector name of an operation (R36). -/
def Instr.op : Instr → Op
  | .crc8 _ => .crc8
  | .crcchk _ _ => .crcchk
  | .tobytes _ => .tobytes
  | .frombytes _ _ => .frombytes
  | .w2f _ _ => .w2f
  | .build _ _ => .build
  | .parse _ _ => .parse
  | .reserved7 => .reserved7

/-- The operand fields of an operation at the wide port (R37). -/
def Instr.operands : Instr → Operands
  | .crc8 word => .w word.toNat
  | .crcchk word crcIn => .wc word.toNat crcIn.toNat
  | .tobytes word => .w word.toNat
  | .frombytes hi lo => .bb hi.toNat lo.toNat
  | .w2f high low => .ww high.toNat low.toNat
  | .build command arguments => .ca command arguments
  | .parse raw expectedWordCount => .rn (raw.map fun b => (b.toNat : Int)) expectedWordCount
  | .reserved7 => .none

/-- The request for an operation: the encoder (R35 to R37). -/
def encode (i : Instr) : Request :=
  { op := i.op.code, operands := i.operands }

/-- The operand fields of a format with every scalar zero and every sequence empty. -/
def Op.zeroOperands : Op → Operands
  | .crc8 => .w 0
  | .crcchk => .wc 0 0
  | .tobytes => .w 0
  | .frombytes => .bb 0 0
  | .w2f => .ww 0 0
  | .build => .ca 0 []
  | .parse => .rn [] 0
  | .reserved7 => .none

/-- The request that spec/opcode_table.json's bits stand for: the table gives bits to the selector only (`op[2:0]`),
so `op` is bits 2:0 of the number and every operand field is zero or empty (log 6). -/
def tableRequest (nbits w : Nat) : Request :=
  let op := BitVec.ofNat 3 (w % 2 ^ nbits)
  { op := op, operands := (Op.ofCode op).zeroOperands }

/-- The operation the decoder reads from the table's bits. -/
def decodeTableWord (nbits w : Nat) : Option Instr :=
  match decode (tableRequest nbits w) with
  | .ok i => some i
  | .error _ => none

end Sys2Proof
end

