-- ==== Sys2Proof/WellFormed.lean ====
section
/-!
DEFINITION. Which operations an implementation admits: spec/00_scope.md rule R6 (a request beyond a finite bound is
not admitted), spec/42_frame_builder.md rule R80, spec/43_frame_parser.md rule R94.
-/

namespace Sys2Proof

/-- Why a request is not admitted (R6). -/
inductive Inadmissible where
  /-- A `BUILD` operand does not fit the `OPW`-bit signed operand port. -/
  | operandTooWide
  /-- A `BUILD` request has more than `MAX_ARGS` arguments. -/
  | tooManyArguments
  /-- A `PARSE` request has more than `MAX_RAW` bytes. -/
  | tooManyBytes
  /-- A `PARSE` request expects more than `MAX_WORDS` Words. -/
  | tooManyWords
deriving DecidableEq, Repr

/-- The integer can be presented on an `OPW`-bit signed port, read as two's complement (R6, log 12). -/
def fitsOpw (opw : Option Nat) (v : Int) : Bool :=
  match opw with
  | none => true
  | some n => decide (-(2 : Int) ^ n ≤ 2 * v ∧ 2 * v < (2 : Int) ^ n)

/-- The reason the implementation with these parameters does not admit the operation, if there is one (R6, R80, R94). -/
def Instr.inadmissible (p : Params) : Instr → Option Inadmissible
  | .build command arguments =>
    if (command :: arguments).all (fitsOpw p.opw) = false then some .operandTooWide
    else if within p.maxArgs arguments.length = false then some .tooManyArguments
    else none
  | .parse raw expectedWordCount =>
    if within p.maxRaw raw.length = false then some .tooManyBytes
    else if within p.maxWords expectedWordCount = false then some .tooManyWords
    else none
  | .crc8 _ => none
  | .crcchk _ _ => none
  | .tobytes _ => none
  | .frombytes _ _ => none
  | .w2f _ _ => none
  | .reserved7 => none

/-- The implementation with these parameters admits the operation. -/
def Instr.wf (p : Params) (i : Instr) : Bool :=
  (i.inadmissible p).isNone

end Sys2Proof
end

