-- ==== Sys2Proof/Machine/State.lean ====
section
/-!
DEFINITION. The machine's state, the responses it delivers, the reasons a step can stop, and the state after reset
(spec/10_state.md rules R10 to R19, spec/30_encoding.md rule R38, spec/60_exceptions.md rule R100,
spec/70_reset_and_hazards.md rules R120 to R122, R133).
-/

namespace Sys2Proof.Machine

/-- R100: the outcome field of a response. -/
inductive Status where
  /-- The operation completed; its result fields are valid. -/
  | ok
  /-- `BUILD`: the command or an argument is not in [0, 65535] (R101). -/
  | invalidArgument
  /-- `PARSE` under `STRICT`: the frame's length is not three times the expected Word count (R102). -/
  | lengthMismatch
  /-- `PARSE`: a triplet's third byte is not the checksum of its Word (R103). -/
  | checksumMismatch
deriving DecidableEq, Repr

/-- R38: the result fields of each operation's response. A field the response says is not valid is absent (`none`, or
the empty sequence R106 gives), never a value (log 11). A one-bit field is a `Bool`: 1 is `true`. -/
inductive Results where
  /-- `CRC8`: `crc_out`. -/
  | crc8 (crcOut : Byte)
  /-- `CRCCHK`: `match`, `crc_out`. -/
  | crcchk (matched : Bool) (crcOut : Byte)
  /-- `TOBYTES`: `hi`, `lo`. -/
  | tobytes (hi : Byte) (lo : Byte)
  /-- `FROMBYTES`: `word`. -/
  | frombytes (word : Word)
  /-- `W2F`: `f32`. -/
  | w2f (f32 : Pattern32)
  /-- `BUILD`: `OUT`. -/
  | build (out : List Byte)
  /-- `PARSE`: `WORDS`; `len_flag`, valid when the status is `OK`; `fail_index`, valid when it is
  `CHECKSUM_MISMATCH` (R104). -/
  | parse (words : List Word) (lenFlag : Option Bool) (failIndex : Option Nat)
deriving DecidableEq, Repr

/-- R35: a response is a record `(status, results)`. -/
structure Response where
  status : Status
  results : Results
deriving DecidableEq, Repr

/-- Why the machine stops with a fault. What the spec calls a fault is a status in a response (R106) and is a next
state here; this is only the model's own stop. -/
inductive Fault where
  /-- An access to an offset at or beyond a buffer's length, which R8 and R25 say no rule performs. Raised by the
  buffer accesses of `BUILD` and `PARSE`; SAFE: the model stops, and no operation reaches it. -/
  | outsideBuffer
deriving DecidableEq, Repr

/-- Why the model gives a request no meaning. -/
inductive Refusal where
  /-- An operation that has no meaning in the model yet. Raised by `exec`'s arms only; SAFE: nothing is claimed. -/
  | notModelled (mnemonic : String)
  /-- `op = 7` names no operation and has no response (R39). Raised by the meaning of the reserved selector; SAFE. -/
  | reservedSelector
  /-- An operand outside its type, or operand fields of another format: the request cannot be expressed, and a model
  over wider integers refuses it (R37, R59, R66, R67). Raised by `step`; SAFE. -/
  | badRequest (why : DecodeError)
  /-- A request beyond a finite parameter is not admitted (R6, R80, R94). Raised by `BUILD` and `PARSE`; SAFE. -/
  | notAdmitted (why : Inadmissible)
deriving DecidableEq, Repr

/-- The whole machine. Between operations the block itself keeps nothing (R10): `crc` and `idx` are then unspecified and
the buffers empty. `params` is fixed for a run, `requests` and `responses` are the host's side of the port, and
`fresh` is the model's own. -/
structure State where
  /-- R6: the implementation's parameters; no operation changes them (R14, R122). -/
  params : Params
  /-- R35, R126, R133: the requests the host has still to issue, the next one first. -/
  requests : List Request
  /-- R133: the responses delivered so far, oldest first. -/
  responses : List Response
  /-- R15: the checksum working register, 8 bits. -/
  crc : Byte
  /-- R16: the transient index, a natural number. -/
  idx : Nat
  /-- R18, R20: buffer `RAW`, the inbound frame; byte offset `a` is element `a`. -/
  raw : List Byte
  /-- R18, R20: buffer `OUT`, the outbound frame; byte offset `a` is element `a`. -/
  out : List Byte
  /-- R18, R20: buffer `WORDS`, the decoded Words. -/
  words : List Word
  /-- The model's own (log 9): how many free values have been drawn; the argument of `Config.freeCrc` and
  `Config.freeIdx`. -/
  fresh : Nat
deriving DecidableEq, Repr

/-- R120: reset makes the block idle: no operation in flight, no response pending, every buffer empty. The parameters
are at R6's defaults. R19 leaves `crc` and `idx` unspecified: DESIGN CHOICE 0 (log 7), not 0xFF (R121). -/
def State.reset : State :=
  { params := Params.default
    requests := []
    responses := []
    crc := 0
    idx := 0
    raw := []
    out := []
    words := []
    fresh := 0 }

end Sys2Proof.Machine
end

