-- ==== Sys2Proof/Machine/Flags.lean ====
section
/-!
DEFINITION. The one-bit results and the tests behind them. The block has no persistent flags (spec/10_state.md rule
R13): each of these belongs to one response.
-/

namespace Sys2Proof.Machine

/-- R58: `match` is 1 exactly when the received byte equals the computed one, all 8 bits (R90). -/
def matchFlag (crcIn crcOut : Byte) : Bool :=
  decide (crcIn = crcOut)

/-- R87: the length test, exact, with no wrap-around. -/
def lengthMismatch (len count : Nat) : Bool :=
  decide (len ≠ 3 * count)

/-- R88: a length mismatch ends the operation under `STRICT`; under `LENIENT` it never does. -/
def rejectsLength (policy : LenPolicy) (len count : Nat) : Bool :=
  match policy with
  | .strict => lengthMismatch len count
  | .lenient => false

/-- R89: `T`, the number of triplets `PARSE` decodes. -/
def tripletCount (len count : Nat) : Nat :=
  if lengthMismatch len count then min count (len / 3) else count

end Sys2Proof.Machine
end

