-- ==== Sys2Proof/Machine/Operands.lean ====
section
/-!
DEFINITION. Operand assembly (spec/30_encoding.md rules R44, R45): how Words, bytes and patterns are taken apart and
put together, all unsigned and by zero extension, and the range check of `BUILD`'s operands
(spec/42_frame_builder.md rule R76).
-/

namespace Sys2Proof.Machine

/-- R45: `word[15:8]`. -/
def hiByte (word : Word) : Byte :=
  word.extractLsb' 8 8

/-- R45: `word[7:0]`. -/
def loByte (word : Word) : Byte :=
  word.extractLsb' 0 8

/-- R45: `(msb << 8) | lsb`, both zero-extended. -/
def joinBytes (msb lsb : Byte) : Word :=
  ((msb.setWidth 16) <<< 8) ||| (lsb.setWidth 16)

/-- R45, R69: `(high << 16) | low`, both zero-extended. -/
def joinWords (high low : Word) : Pattern32 :=
  ((high.setWidth 32) <<< 16) ||| (low.setWidth 32)

/-- R76: the arguments as Words, when every one is in [0, 65535]. -/
def argumentWords : List Int → Option (List Word)
  | [] => some []
  | v :: rest =>
    match asWord v, argumentWords rest with
    | some w, some ws => some (w :: ws)
    | _, _ => none

/-- R76: the command and the arguments as Words, when all `1 + A` of them are in [0, 65535]. -/
def buildWords (command : Int) (arguments : List Int) : Option (Word × List Word) :=
  match asWord command, argumentWords arguments with
  | some c, some ws => some (c, ws)
  | _, _ => none

end Sys2Proof.Machine
end

