-- ==== Sys2Proof/Machine/Ops.lean ====
section
/-!
DEFINITION. The named operations over the state that the meanings share: taking a request, buffer accesses
(spec/00_scope.md rule R8, spec/20_memory.md rules R20 to R26), delivering a response and raising a fault status
(spec/60_exceptions.md rules R106, R107).
-/

namespace Sys2Proof.Machine

/-- What a meaning answers. -/
abbrev Result := Host.Outcome State Fault Refusal

/-- Go on from a next state; a fault or a refusal ends the operation. -/
def andThen (r : Result) (f : State → Result) : Result :=
  match r with
  | .next s => f s
  | .fault why => .fault why
  | .refused why => .refused why

/-- R35, R126: the next request of the host and the state in which it is in flight; none when the block is idle. -/
def takeRequest (s : State) : Option (Request × State) :=
  match s.requests with
  | [] => none
  | r :: rest => some (r, { s with requests := rest })

/-- R100: the status numbers. -/
def statusCode : Status → BitVec 2
  | .ok => 0
  | .invalidArgument => 1
  | .lengthMismatch => 2
  | .checksumMismatch => 3

/-- R8: `MemRead(S + a, n)`, the `n` bytes of buffer `S` at offsets `a` to `a+n-1`; it requires `a + n ≤ len(S)`, and
an offset at or beyond the length holds no byte. -/
def memRead (buf : List Byte) (a n : Nat) : Option (List Byte) :=
  if a + n ≤ buf.length then some ((buf.drop a).take n) else none

/-- R8: `MemWrite(S + a, n, bytes)` with `n` the number of bytes: they stand at offsets `a` to `a+n-1` and every other
offset keeps its byte. `OUT` grows by what is stored at its end (R20, R21); a store that would leave a gap holds no
frame. -/
def memWrite (buf : List Byte) (a : Nat) (bytes : List Byte) : Option (List Byte) :=
  if a ≤ buf.length then some (buf.take a ++ bytes ++ buf.drop (a + bytes.length)) else none

/-- `MemWrite(OUT + a, n, bytes)`. -/
def writeOut (a : Nat) (bytes : List Byte) (s : State) : Result :=
  match memWrite s.out a bytes with
  | some out => .next { s with out := out }
  | none => .fault .outsideBuffer

/-- R26: a whole-Word append, `WORDS <- WORDS ++ [word]`. -/
def appendWord (word : Word) (s : State) : State :=
  { s with words := s.words ++ [word] }

/-- R16: `idx <- idx + 1`. -/
def bumpIdx (s : State) : State :=
  { s with idx := s.idx + 1 }

/-- R21, R75: a `BUILD` starts with `OUT` empty and `idx` at 0. -/
def openOut (s : State) : State :=
  { s with out := [], idx := 0 }

/-- R21, R85: a `PARSE` has the request's bytes in `RAW` and starts with `WORDS` empty and `idx` at 0. -/
def openRaw (raw : List Byte) (s : State) : State :=
  { s with raw := raw, words := [], idx := 0 }

/-- R21, R127: with the response `RAW` is the host's again and `OUT` and `WORDS` are handed over whole; the block keeps
no copy. -/
def closeBuffers (s : State) : State :=
  { s with raw := [], out := [], words := [] }

/-- R35, R133: deliver a response. The operation is over: `crc` and `idx` hold unspecified values from here on (R19),
which are free values (log 8). -/
def respond (r : Response) (s : State) : State :=
  { s with
    responses := s.responses ++ [r]
    crc := Config.freeCrc s.fresh
    idx := Config.freeIdx s.fresh
    fresh := s.fresh + 1 }

/-- Deliver the response of an operation that used buffers, and hand the buffers over. -/
def deliver (r : Response) (s : State) : State :=
  respond r (closeBuffers s)

/-- R106: `raise S(info)`, the one way a fault status is delivered: the operation ends, its response has the status
and no data, and nothing else happens. There is nothing to save and nothing to return from (R107). -/
def raise (status : Status) (noData : Results) (s : State) : State :=
  deliver { status := status, results := noData } s

/-- R6, R80, R94: an operation beyond a finite parameter is not admitted; the model refuses it. -/
def ifAdmitted (i : Instr) (s : State) (meaning : State → Result) : Result :=
  match i.inadmissible s.params with
  | some why => .refused (.notAdmitted why)
  | none => meaning s

/-- A buffer as (offset, byte) pairs. -/
def Memory.cells (buf : List Byte) : List Host.Cell :=
  buf.zipIdx.map fun p => (p.2, p.1)

/-- The pairs are in canonical form: offsets strictly rising. An unlisted offset holds no byte, so no listed pair
equals what an unlisted offset reads as (log 10). -/
def Memory.wf (cells : List Host.Cell) : Bool :=
  decide (cells.Pairwise fun p q => p.1 < q.1)

end Sys2Proof.Machine
end

