-- ==== Sys2Proof/Machine/Checksum.lean ====
section
/-!
DEFINITION. The Checksum Engine (spec/40_checksum_engine.md): the working register's steps and the operations `CRC8`
and `CRCCHK`.
-/

namespace Sys2Proof.Machine

/-- R5, R56: the polynomial x^8+x^5+x^4+1 with the x^8 term left implicit. -/
def crcPoly : Byte := 0x31

/-- R5, R15: the value the working register is loaded with at the start of every checksum computation. -/
def crcInit : Byte := 0xFF

/-- R55, R56: one shift step: bit 7 is tested before the shift, and the shift drops it. -/
def crcShift (crc : Byte) : Byte :=
  if crc.getLsbD 7 then (crc <<< 1) ^^^ crcPoly else crc <<< 1

/-- A number of shift steps. -/
def crcShifts : Nat → Byte → Byte
  | 0, crc => crc
  | n + 1, crc => crcShifts n (crcShift crc)

/-- R55: XOR a data byte into the register, then shift eight times. -/
def crcFeed (b : Byte) (crc : Byte) : Byte :=
  crcShifts 8 (crc ^^^ b)

/-- R55: the checksum of a Word, more significant byte first. -/
def checksum (word : Word) : Checksum :=
  crcFeed (loByte word) (crcFeed (hiByte word) crcInit)

/-- R15: `crc <- 0xFF`. -/
def loadCrc (s : State) : State :=
  { s with crc := crcInit }

/-- R55: the body of the loop over the two bytes, on the working register. -/
def feedByte (b : Byte) (s : State) : State :=
  { s with crc := crcFeed b s.crc }

/-- R55: the engine runs over a Word; the checksum is left in the working register. -/
def runEngine (word : Word) (s : State) : State :=
  feedByte (loByte word) (feedByte (hiByte word) (loadCrc s))

/-- R55: `CRC8`. -/
def execCrc8 (word : Word) (s : State) : Result :=
  let s := runEngine word s
  .next (respond { status := .ok, results := .crc8 s.crc } s)

/-- R58: `CRCCHK`; a mismatch is a result, not a fault. -/
def execCrcchk (word : Word) (crcIn : Byte) (s : State) : Result :=
  let s := runEngine word s
  .next (respond { status := .ok, results := .crcchk (matchFlag crcIn s.crc) s.crc } s)

end Sys2Proof.Machine
end

