-- ==== Sys2Proof/Machine/Builder.lean ====
section
/-!
DEFINITION. The Frame Builder (spec/42_frame_builder.md): `BUILD`.
-/

namespace Sys2Proof.Machine

/-- R75, phase 2: the loop over the arguments; each triplet is stored at its offset (R24, R27) and its checksum comes
from the engine, which starts again from 0xFF (R15). -/
def emitArguments : List Word → State → Result
  | [], s => .next s
  | a :: rest, s =>
    let s := runEngine a s
    andThen (writeOut (2 + 3 * s.idx) [hiByte a, loByte a, s.crc] s) fun s => emitArguments rest (bumpIdx s)

/-- R75, phase 2: the command's two bytes with no checksum (R77), then the arguments, then the response. -/
def emitFrame (command : Word) (arguments : List Word) (s : State) : Result :=
  andThen (writeOut 0 [hiByte command, loByte command] (openOut s)) fun s =>
    andThen (emitArguments arguments s) fun s =>
      .next (deliver { status := .ok, results := .build s.out } s)

/-- R75, R76: every operand is checked before the first byte of `OUT` is produced. -/
def buildFrame (command : Int) (arguments : List Int) (s : State) : Result :=
  match buildWords command arguments with
  | none => .next (raise .invalidArgument (.build []) s)
  | some (c, ws) => emitFrame c ws s

/-- R75, R80: `BUILD`. -/
def execBuild (command : Int) (arguments : List Int) (s : State) : Result :=
  ifAdmitted (.build command arguments) s (buildFrame command arguments)

end Sys2Proof.Machine
end

