-- ==== Sys2Proof/Machine/Codec.lean ====
section
/-!
DEFINITION. The Word Codec (spec/41_word_codec.md): `TOBYTES`, `FROMBYTES` and `W2F`. None of them can fault (R106).
-/

namespace Sys2Proof.Machine

/-- R65: `TOBYTES`. -/
def execTobytes (word : Word) (s : State) : Result :=
  .next (respond { status := .ok, results := .tobytes (hiByte word) (loByte word) } s)

/-- R67: `FROMBYTES`. -/
def execFrombytes (hi lo : Byte) (s : State) : Result :=
  .next (respond { status := .ok, results := .frombytes (joinBytes hi lo) } s)

/-- R69: `W2F`: the bit-exact pattern, nothing rounded, quieted or flushed. -/
def execW2f (high low : Word) (s : State) : Result :=
  .next (respond { status := .ok, results := .w2f (joinWords high low) } s)

end Sys2Proof.Machine
end

