-- ==== Sys2Proof/Machine/Parser.lean ====
section
/-!
DEFINITION. The Frame Parser (spec/43_frame_parser.md): `PARSE`.
-/

namespace Sys2Proof.Machine

/-- R85: the loop over the triplets still to decode, in rising index; the first bad one ends the operation (R90), and
after the last one the Words are delivered (R91). -/
def parseTriplets (lenFlag : Bool) : Nat → State → Result
  | 0, s => .next (deliver { status := .ok, results := .parse s.words (some lenFlag) none } s)
  | n + 1, s =>
    match memRead s.raw (3 * s.idx) 3 with
    | some [msb, lsb, crcIn] =>
      let word := joinBytes msb lsb
      let s := runEngine word s
      if matchFlag crcIn s.crc then parseTriplets lenFlag n (bumpIdx (appendWord word s))
      else .next (raise .checksumMismatch (.parse [] none (some s.idx)) s)
    | _ => .fault .outsideBuffer

/-- R85 to R89: no expected Word is answered before anything is inspected; then the length test; then the triplets. -/
def parseFrame (raw : List Byte) (count : Nat) (s : State) : Result :=
  let s := openRaw raw s
  if count = 0 then .next (deliver { status := .ok, results := .parse [] (some false) none } s)
  else
    match rejectsLength s.params.lenPolicy s.raw.length count with
    | true => .next (raise .lengthMismatch (.parse [] none none) s)
    | false => parseTriplets (lengthMismatch s.raw.length count) (tripletCount s.raw.length count) s

/-- R85, R94: `PARSE`. -/
def execParse (raw : List Byte) (expectedWordCount : Nat) (s : State) : Result :=
  ifAdmitted (.parse raw expectedWordCount) s (parseFrame raw expectedWordCount)

end Sys2Proof.Machine
end

