-- ==== Sys2Proof/Machine/Reserved.lean ====
section
/-!
DEFINITION. The reserved selector (spec/30_encoding.md rule R39).
-/

namespace Sys2Proof.Machine

/-- R39: `op = 7` names no operation; no response is defined, and the model refuses the request. -/
def execReserved7 (_s : State) : Result :=
  .refused .reservedSelector

end Sys2Proof.Machine
end

