-- ==== Sys2Proof/Machine/Dispatch.lean ====
section
/-!
DEFINITION. The meaning of every operation: one arm per constructor of `Instr`, each a direct call.
-/

namespace Sys2Proof.Machine

def exec (i : Instr) (s : State) : Host.Outcome State Fault Refusal :=
  match i with
  | .crc8 word => Sys2Proof.Machine.execCrc8 word s
  | .crcchk word crcIn => Sys2Proof.Machine.execCrcchk word crcIn s
  | .tobytes word => Sys2Proof.Machine.execTobytes word s
  | .frombytes hi lo => Sys2Proof.Machine.execFrombytes hi lo s
  | .w2f high low => Sys2Proof.Machine.execW2f high low s
  | .build command arguments => Sys2Proof.Machine.execBuild command arguments s
  | .parse raw expectedWordCount => Sys2Proof.Machine.execParse raw expectedWordCount s
  | .reserved7 => Sys2Proof.Machine.execReserved7 s

end Sys2Proof.Machine
end

