-- ==== Sys2Proof/Machine/Step.lean ====
section
/-!
DEFINITION. One step of the machine: take a request, give its response (spec/30_encoding.md rule R35).
-/

namespace Sys2Proof.Machine

/-- R35, R126: the next request of the host is decoded and performed as one atomic step. With no request the block is
idle and nothing happens (R120, log 4). A request that names no operation with operands of their types is refused
(R37, R59, R66, R67). -/
def step (s : State) : Host.Outcome State Fault Refusal :=
  match takeRequest s with
  | none => .next s
  | some (r, s) =>
    match decode r with
    | .error why => .refused (.badRequest why)
    | .ok i => exec i s

/-- The state with the request of the table's bits as the very next one the host issues (log 1, log 6). -/
def State.withFetchWord (s : State) (nbits w : Nat) : State :=
  { s with requests := tableRequest nbits w :: s.requests }

end Sys2Proof.Machine
end

