-- ==== Sys2Proof/Machine/HostData.lean ====
section
/-!
DEFINITION. What the spec gives for the host's use and the block does not interpret: the command descriptors
(spec/30_encoding.md rule R48), the pseudo-operations (R49), the helper from a pattern to its two Words
(spec/41_word_codec.md rule R71), and the reading of a pattern as a binary32 number (R44, R70).
-/

namespace Sys2Proof.Machine

/-- R9, R48: a Command Descriptor's fixed part: the code, how many argument Words are sent and how many response Words
are expected. -/
structure CommandDescriptor where
  name : String
  code : Word
  argumentsSent : Nat
  expectedWordCount : Nat
deriving DecidableEq, Repr

/-- R48: the commands the source lists, with the per-operation counts (spec/90_conflicts.md C1). -/
def commandDescriptors : List CommandDescriptor :=
  [ ⟨"start_periodic_measurement", 0x0010, 1, 0⟩,
    ⟨"stop_periodic_measurement", 0x0104, 0, 0⟩,
    ⟨"get_data_ready", 0x0202, 0, 1⟩,
    ⟨"read_measurement", 0x0300, 0, 6⟩,
    ⟨"set_measurement_interval", 0x4600, 1, 1⟩,
    ⟨"get_measurement_interval", 0x4600, 0, 1⟩,
    ⟨"set_auto_self_calibration", 0x5306, 1, 0⟩,
    ⟨"get_auto_self_calibration_active", 0x5306, 0, 1⟩,
    ⟨"get_firmware_version", 0xD100, 0, 1⟩,
    ⟨"soft_reset", 0xD304, 0, 0⟩ ]

/-- R49: the two operations of the block inside `XFER cmd, [args], n`, given the bytes the Transport read. -/
def xfer (command : Int) (arguments : List Int) (raw : List Byte) (count : Nat) : List Request :=
  [encode (.build command arguments), encode (.parse raw count)]

/-- R71: the two Words of a pattern, `high = f32[31:16]`, `low = f32[15:0]`: a helper for test frames, no operation. -/
def patternWords (f32 : Pattern32) : Word × Word :=
  (f32.extractLsb' 16 16, f32.extractLsb' 0 16)

/-- R44: bit 31, the sign. -/
def f32Sign (f32 : Pattern32) : Bool :=
  f32.getLsbD 31

/-- R44: bits 30:23, the biased exponent. -/
def f32Exponent (f32 : Pattern32) : BitVec 8 :=
  f32.extractLsb' 23 8

/-- R44: bits 22:0, the fraction. -/
def f32Fraction (f32 : Pattern32) : BitVec 23 :=
  f32.extractLsb' 0 23

/-- R70: what a pattern reads as. PRESUMED (log 17): the spec supplies it from general knowledge. -/
inductive Reading where
  /-- The number `(-1)^negative × significand × 2^exponent`; a zero keeps its sign. -/
  | finite (negative : Bool) (significand : Nat) (exponent : Int)
  /-- An infinity. -/
  | infinite (negative : Bool)
  /-- A NaN, quiet or signalling. -/
  | nan (quiet : Bool)
deriving DecidableEq, Repr

/-- R70: the standard reading of a pattern as a binary32 number. -/
def readBinary32 (f32 : Pattern32) : Reading :=
  let e := (f32Exponent f32).toNat
  let m := (f32Fraction f32).toNat
  if e = 255 then
    if m = 0 then .infinite (f32Sign f32) else .nan (f32.getLsbD 22)
  else if e = 0 then .finite (f32Sign f32) m (-149)
  else .finite (f32Sign f32) (2 ^ 23 + m) ((e : Int) - 150)

end Sys2Proof.Machine
end

