-- ==== Sys2Proof/Safety.lean ====
section
/-!
DEFINITION. What counts as a right response and a safe run, in the terms the statements use.
-/

namespace Sys2Proof.Machine

/-- An operation taken in `s` and answered with `r` leaves `t`: one response more, the host's other requests and the
parameters as they were (R14, R35, R133). It says nothing of `crc` and `idx`, which are unspecified (R19). -/
structure Answers (s t : State) (r : Response) : Prop where
  responses : t.responses = s.responses ++ [r]
  requests : t.requests = s.requests
  params : t.params = s.params

/-- Every byte of every buffer is as it was: an operation that touches no buffer (R20, R96). -/
structure BuffersKept (s t : State) : Prop where
  raw : t.raw = s.raw
  out : t.out = s.out
  words : t.words = s.words

/-- The block holds no byte and no Word: an operation that used buffers has handed them over (R21, R127). -/
structure BuffersEmpty (t : State) : Prop where
  raw : t.raw = []
  out : t.out = []
  words : t.words = []

/-- Triplet `i` of a frame is whole and valid (R24, R41). -/
def TripletValid (raw : List Byte) (i : Nat) : Prop :=
  ∃ msb lsb crc, raw[3 * i]? = some msb ∧ raw[3 * i + 1]? = some lsb ∧ raw[3 * i + 2]? = some crc ∧
    crc = checksum (joinBytes msb lsb)

/-- Triplet `i` of a frame is whole and its third byte is not the checksum of its Word (R90). -/
def TripletBad (raw : List Byte) (i : Nat) : Prop :=
  ∃ msb lsb crc, raw[3 * i]? = some msb ∧ raw[3 * i + 1]? = some lsb ∧ raw[3 * i + 2]? = some crc ∧
    crc ≠ checksum (joinBytes msb lsb)

/-- `words` are the Words of the first triplets of `raw`, in order (R91). -/
def WordsOf (raw : List Byte) (words : List Word) : Prop :=
  ∀ i, i < words.length → ∃ msb lsb, raw[3 * i]? = some msb ∧ raw[3 * i + 1]? = some lsb ∧
    words[i]? = some (joinBytes msb lsb)

/-- R55, with the spec's own primitives: a shift of an unbounded number, then `& 0xFF` (R8). -/
def refShift (crc : Nat) : Nat :=
  if crc.testBit 7 then ((crc <<< 1) ^^^ 0x31) &&& 0xFF else (crc <<< 1) &&& 0xFF

/-- R55, with the spec's own primitives: XOR a byte in and shift eight times. -/
def refFeed (crc b : Nat) : Nat :=
  refShift^[8] (crc ^^^ b)

/-- R55, with the spec's own primitives: the checksum of a number in [0, 65535]. -/
def refChecksum (word : Nat) : Nat :=
  [word >>> 8, word &&& 0xFF].foldl refFeed 0xFF

/-- Flip bit `k` of byte `p` of a frame. -/
def flipBit (raw : List Byte) (p k : Nat) : List Byte :=
  raw.modify p (· ^^^ BitVec.twoPow 8 k)

/-- R70: the number a finite reading stands for. -/
def Reading.value : Reading → Option ℚ
  | .finite negative significand exponent =>
    some ((if negative then -1 else 1) * significand * (2 : ℚ) ^ exponent)
  | .infinite _ => none
  | .nan _ => none

/-- A response of the shape R38 and R106 allow: scalar operations are `OK`; a `BUILD` that is `OK` carries an outbound
frame (R42) and one that is not carries nothing; a `PARSE` carries its fields exactly where they are valid, and only
under the length policy that allows it (R88, R102). -/
def Response.wf (p : Params) : Response → Bool
  | ⟨.ok, .crc8 _⟩ => true
  | ⟨.ok, .crcchk _ _⟩ => true
  | ⟨.ok, .tobytes _ _⟩ => true
  | ⟨.ok, .frombytes _⟩ => true
  | ⟨.ok, .w2f _⟩ => true
  | ⟨.ok, .build out⟩ => isOutboundFrame out
  | ⟨.invalidArgument, .build out⟩ => out.isEmpty
  | ⟨.ok, .parse _ (some lenFlag) none⟩ => !lenFlag || decide (p.lenPolicy = .lenient)
  | ⟨.lengthMismatch, .parse words none none⟩ => words.isEmpty && decide (p.lenPolicy = .strict)
  | ⟨.checksumMismatch, .parse words none (some _)⟩ => words.isEmpty
  | _ => false

/-- The invariant of the machine between operations: the block holds nothing (R10, R19), the parameters are ones a
realisation may have (R6), and every response delivered has a shape the spec allows (R38, R106). -/
structure Inv (s : State) : Prop where
  buffers : BuffersEmpty s
  legal : s.params.legal = true
  shaped : ∀ r ∈ s.responses, r.wf s.params = true

end Sys2Proof.Machine
end

