-- ==== Sys2Proof/Certificates/Slice0/Obligations.lean ====
section
/-!
DEFINITION. The statements for the provers, each from the numbered rules of spec/ it names. `Answers s t r` says
that an operation taken in `s` was answered with the response `r` and left `t` with the host's other requests, the
earlier responses and the parameters as they were; `BuffersKept` and `BuffersEmpty` say what became of every byte of
the three buffers. `crc` and `idx` are unspecified between operations (R19), so no statement says what they hold.
-/

open Sys2Proof Sys2Proof.Machine

/-! Reset and the step -/

/-- R120: reset leaves the block idle with nothing pending and its buffers empty, and the first request after it is
answered exactly as the same request at any later time. -/
def Obligations.ResetLeavesTheBlockIdle : Prop :=
  State.reset.requests = [] ∧ State.reset.responses = [] ∧ BuffersEmpty State.reset ∧
    ∀ (i : Instr) (s : State) (r : Response), s.params = State.reset.params →
      ((∃ t, exec i State.reset = .next t ∧ Answers State.reset t r) ↔ (∃ t, exec i s = .next t ∧ Answers s t r))

/-- R6: after reset the parameters are at the defaults the spec takes. -/
def Obligations.ResetTakesTheDefaultParameters : Prop :=
  State.reset.params.opw = none ∧ State.reset.params.maxArgs = none ∧ State.reset.params.maxWords = none ∧
    State.reset.params.maxRaw = none ∧ State.reset.params.lenPolicy = .strict

/-- The invariant holds right after reset. -/
def Obligations.ResetMeetsTheInvariant : Prop :=
  Inv State.reset

/-- Every step keeps the invariant: the block holds nothing between operations (R10, R19), the parameters stay legal
(R6, R14) and every response delivered has a shape R38 and R106 allow. -/
def Obligations.StepKeepsTheInvariant : Prop :=
  ∀ s t : State, Inv s → step s = .next t → Inv t

/-- R35, R126: a step takes the host's next request and is the operation it decodes to. With no request the step
changes nothing: that clause is the model's choice (log 4). -/
def Obligations.StepRunsTheDecodedRequest : Prop :=
  (∀ (s : State) (r : Request) (rest : List Request) (i : Instr), s.requests = r :: rest → decode r = .ok i →
      step s = exec i { s with requests := rest }) ∧
    (∀ (s : State) (r : Request) (rest : List Request) (why : DecodeError), s.requests = r :: rest →
      decode r = .error why → step s = .refused (.badRequest why)) ∧
    (∀ s : State, s.requests = [] → step s = .next s)

/-- R14, R122: no step changes a parameter. -/
def Obligations.StepKeepsTheParameters : Prop :=
  ∀ s t : State, step s = .next t → t.params = s.params

/-! Encoding -/

/-- R36, R37: requests written out from the spec's programs P1, P2 and P3 and the rows of the opcode table decode to
the operations they stand for. -/
def Obligations.KnownRequestsDecode : Prop :=
  decode ⟨0b010#3, .w 0xBEEF⟩ = .ok (.tobytes 0xBEEF#16) ∧
    decode ⟨0b011#3, .bb 0xBE 0xEF⟩ = .ok (.frombytes 0xBE#8 0xEF#8) ∧
    decode ⟨0b000#3, .w 0xBEEF⟩ = .ok (.crc8 0xBEEF#16) ∧
    decode ⟨0b001#3, .wc 0xBEEF 0x12⟩ = .ok (.crcchk 0xBEEF#16 0x12#8) ∧
    decode ⟨0b101#3, .ca 0x4600 [2]⟩ = .ok (.build 0x4600 [2]) ∧
    decode ⟨0b110#3, .rn [0x00, 0x02, 0xE3] 1⟩ = .ok (.parse [0x00#8, 0x02#8, 0xE3#8] 1) ∧
    decode ⟨0b100#3, .ww 0x43C8 0x0000⟩ = .ok (.w2f 0x43C8#16 0x0000#16) ∧
    decodeTableWord 8 7 = some .reserved7

/-- R35 to R37: the decoder reads back every operation the encoder writes, with every operand at every value. -/
def Obligations.DecodeReadsBackEveryEncoding : Prop :=
  ∀ i : Instr, decode (encode i) = .ok i

/-- R36, R37: where the selector is not the reserved one, a request has one meaning: it is the encoding of what it
decodes to. -/
def Obligations.EveryDecodedRequestIsItsEncoding : Prop :=
  ∀ (r : Request) (i : Instr), decode r = .ok i → r.op ≠ 0b111#3 → encode i = r

/-- R39: a request with `op = 7` names no operation and is refused, whatever its operands. The refusal's name is the
model's (log 13). -/
def Obligations.ReservedSelectorIsRefused : Prop :=
  (∀ s : State, exec .reserved7 s = .refused .reservedSelector) ∧
    ∀ (s : State) (operands : Operands) (rest : List Request), s.requests = ⟨0b111#3, operands⟩ :: rest →
      step s = .refused .reservedSelector

/-- A value outside the Word range is refused, never masked and never answered with a fault status
(spec/40_checksum_engine.md section 3, spec/41_word_codec.md section 1). The refusal's name, and that the first bad
operand in the order of the request's fields gives it, are the model's choice (log 5). -/
def Obligations.OperandOutsideTheWordRangeIsRefused : Prop :=
  ∀ (s : State) (rest : List Request) (v other : Int), ¬ (0 ≤ v ∧ v ≤ 65535) →
    (s.requests = ⟨0b000#3, .w v⟩ :: rest → step s = .refused (.badRequest .wordOutOfRange)) ∧
    (s.requests = ⟨0b001#3, .wc v other⟩ :: rest → step s = .refused (.badRequest .wordOutOfRange)) ∧
    (s.requests = ⟨0b010#3, .w v⟩ :: rest → step s = .refused (.badRequest .wordOutOfRange)) ∧
    (s.requests = ⟨0b100#3, .ww v other⟩ :: rest → step s = .refused (.badRequest .wordOutOfRange)) ∧
    (s.requests = ⟨0b100#3, .ww other v⟩ :: rest → step s = .refused (.badRequest .wordOutOfRange))

/-- R37, R67: a value outside the Byte range or a negative count is refused. The names of the refusals are the
model's (log 5). -/
def Obligations.OperandOutsideTheByteRangeIsRefused : Prop :=
  ∀ (s : State) (rest : List Request) (v : Int) (w : Word) (b : Byte) (before after : List Byte),
    (¬ (0 ≤ v ∧ v ≤ 255) →
      (s.requests = ⟨0b001#3, .wc w.toNat v⟩ :: rest → step s = .refused (.badRequest .byteOutOfRange)) ∧
      (s.requests = ⟨0b011#3, .bb v b.toNat⟩ :: rest → step s = .refused (.badRequest .byteOutOfRange)) ∧
      (s.requests = ⟨0b011#3, .bb b.toNat v⟩ :: rest → step s = .refused (.badRequest .byteOutOfRange)) ∧
      (s.requests = ⟨0b110#3, .rn (before.map (fun x => (x.toNat : Int)) ++
          v :: after.map (fun x => (x.toNat : Int))) 1⟩ :: rest →
        step s = .refused (.badRequest .byteOutOfRange))) ∧
    (v < 0 → s.requests = ⟨0b110#3, .rn (before.map fun x => (x.toNat : Int)) v⟩ :: rest →
      step s = .refused (.badRequest .negativeCount))

/-- R6, R80, R94: a request beyond a finite parameter is not admitted: no response is defined for it. -/
def Obligations.RequestBeyondAParameterIsRefused : Prop :=
  ∀ (s : State) (m : Nat),
    (∀ command arguments, s.params.maxArgs = some m → m < arguments.length →
      ∃ why, exec (.build command arguments) s = .refused (.notAdmitted why)) ∧
    (∀ raw count, s.params.maxRaw = some m → m < raw.length →
      ∃ why, exec (.parse raw count) s = .refused (.notAdmitted why)) ∧
    (∀ raw count, s.params.maxWords = some m → m < count →
      ∃ why, exec (.parse raw count) s = .refused (.notAdmitted why))

/-! The Checksum Engine -/

/-- R55: `CRC8` answers `OK` with the checksum that the rule's pseudocode computes, for every Word and in every
state; with the rule's encoding, corner cases and worked example. -/
def Obligations.Crc8AnswersTheChecksum : Prop :=
  (∀ (w : Word) (s : State), ∃ t c, exec (.crc8 w) s = .next t ∧ Answers s t ⟨.ok, .crc8 c⟩ ∧ BuffersKept s t ∧
      c.toNat = refChecksum w.toNat) ∧
    (∀ w : Word, decode ⟨0b000#3, .w w.toNat⟩ = .ok (.crc8 w)) ∧
    (∀ p ∈ ([(0x0000, 0x81), (0xFF00, 0x00), (0x00AC, 0x00), (0xFFFF, 0xAC), (0xBEEF, 0x92)] : List (Word × Byte)),
      ∀ s : State, ∃ t, exec (.crc8 p.1) s = .next t ∧ Answers s t ⟨.ok, .crc8 p.2⟩)

/-- R58: `CRCCHK` answers `OK` with the checksum and whether the received byte equals it, and exactly one byte does;
with the rule's encoding, corner cases and worked example. -/
def Obligations.CrcchkComparesWithTheChecksum : Prop :=
  (∀ (w : Word) (c : Byte) (s : State), ∃ t x, exec (.crcchk w c) s = .next t ∧
      Answers s t ⟨.ok, .crcchk (decide (c = x)) x⟩ ∧ BuffersKept s t ∧ x.toNat = refChecksum w.toNat) ∧
    (∀ (w : Word) (c : Byte), decode ⟨0b001#3, .wc w.toNat c.toNat⟩ = .ok (.crcchk w c)) ∧
    (∀ (w : Word) (s : State), ∃! c : Byte, ∃ t x, exec (.crcchk w c) s = .next t ∧
      Answers s t ⟨.ok, .crcchk true x⟩) ∧
    (∀ p ∈ ([(0x0000, 0x00, false, 0x81), (0xFF00, 0x00, true, 0x00), (0xBEEF, 0x92, true, 0x92),
        (0xBEEF, 0x93, false, 0x92)] : List (Word × Byte × Bool × Byte)),
      ∀ s : State, ∃ t, exec (.crcchk p.1 p.2.1) s = .next t ∧ Answers s t ⟨.ok, .crcchk p.2.2.1 p.2.2.2⟩)

/-- The byte-table form (spec/40_checksum_engine.md marks it as derived from the bit-serial one): the byte table as
it is printed holds the eight shift steps of each byte, and `CRC8` answers what two look-ups in it give, for every
Word. -/
def Obligations.TableFormGivesTheChecksum : Prop :=
  (∀ x : Byte, crcTable x = crcByte x) ∧
    ∀ (w : Word) (s : State), ∃ t, exec (.crc8 w) s = .next t ∧ Answers s t ⟨.ok, .crc8 (tableChecksum w)⟩

/-- An inference from the polynomial that spec/40_checksum_engine.md names: the checksum is the remainder, by the
polynomial x^8+x^5+x^4+1 over the field of two elements, of the Word with its more significant byte complemented,
moved up by eight bits. -/
def Obligations.ChecksumIsThePolynomialRemainder : Prop :=
  ∀ (w : Word) (s : State), ∃ t c, exec (.crc8 w) s = .next t ∧ Answers s t ⟨.ok, .crc8 c⟩ ∧
    ∃ q : Polynomial (ZMod 2),
      (∑ i ∈ Finset.range 16, if (w ^^^ 0xFF00#16).getLsbD i then Polynomial.X ^ i else 0) * Polynomial.X ^ 8 =
        q * (Polynomial.X ^ 8 + Polynomial.X ^ 5 + Polynomial.X ^ 4 + 1) +
          ∑ i ∈ Finset.range 8, if c.getLsbD i then Polynomial.X ^ i else 0

/-- Affinity over XOR (spec/40_checksum_engine.md section 4 item 3, marked as derived there). -/
def Obligations.ChecksumIsAffineOverXor : Prop :=
  ∀ a b : Word, checksum (a ^^^ b) = checksum a ^^^ checksum b ^^^ 0x81#8

/-- Spec/40_checksum_engine.md section 4 items 2 and 6, marked as derived there: flipping any one bit, or any two
distinct bits, of the 24 bits of a valid triplet makes it invalid. The triplet of the Word `w` is `w` above its
checksum, and `e` holds the flipped bits. -/
def Obligations.OneAndTwoBitFlipsInvalidateATriplet : Prop :=
  ∀ (w : Word) (e : BitVec 24),
    (∃ i < 24, e = BitVec.twoPow 24 i) ∨
      (∃ i < 24, ∃ j < 24, i ≠ j ∧ e = BitVec.twoPow 24 i ^^^ BitVec.twoPow 24 j) →
    checksum (w ^^^ e.extractLsb' 8 16) ≠ checksum w ^^^ e.extractLsb' 0 8

/-- Spec/40_checksum_engine.md section 4 items 4 and 5, marked as derived there: each byte is the checksum of
exactly 256 Words, and with either byte of the Word fixed the checksum is a bijection from the other. -/
def Obligations.ChecksumIsBalanced : Prop :=
  (∀ c : Byte, Nat.card { w : Word // checksum w = c } = 256) ∧
    (∀ hi : Byte, Function.Bijective fun lo : Byte => checksum (joinBytes hi lo)) ∧
    ∀ lo : Byte, Function.Bijective fun hi : Byte => checksum (joinBytes hi lo)

/-- What spec/30_encoding.md says of triplets, marked as derived there: a triplet is valid exactly when its byte 2
equals the checksum of its Word; every Word has exactly one valid triplet; of the 2^24 triplets exactly 65536 are
valid. -/
def Obligations.EveryWordHasOneValidTriplet : Prop :=
  (∀ msb lsb crc : Byte, validTriplet msb lsb crc = true ↔ crc.toNat = refChecksum (msb.toNat * 256 + lsb.toNat)) ∧
    (∀ w : Word, ∃! p : Byte × Byte × Byte, joinBytes p.1 p.2.1 = w ∧ validTriplet p.1 p.2.1 p.2.2 = true) ∧
    Nat.card { p : Byte × Byte × Byte // validTriplet p.1 p.2.1 p.2.2 = true } = 65536

/-! The Word Codec -/

/-- R65: `TOBYTES` answers `OK` with bits 15:8 and bits 7:0, in that order. -/
def Obligations.TobytesSplitsBigEndian : Prop :=
  (∀ (w : Word) (s : State), ∃ t hi lo, exec (.tobytes w) s = .next t ∧ Answers s t ⟨.ok, .tobytes hi lo⟩ ∧
      BuffersKept s t ∧ hi.toNat = w.toNat / 256 ∧ lo.toNat = w.toNat % 256) ∧
    (∀ w : Word, decode ⟨0b010#3, .w w.toNat⟩ = .ok (.tobytes w)) ∧
    (∀ p ∈ ([(0x0000, 0x00, 0x00), (0xFFFF, 0xFF, 0xFF), (0x00FF, 0x00, 0xFF), (0xFF00, 0xFF, 0x00),
        (0xBEEF, 0xBE, 0xEF)] : List (Word × Byte × Byte)),
      ∀ s : State, ∃ t, exec (.tobytes p.1) s = .next t ∧ Answers s t ⟨.ok, .tobytes p.2.1 p.2.2⟩)

/-- R67: `FROMBYTES` answers `OK` with the Word of its two bytes, the first the more significant, for every pair of
bytes; nothing is sign-extended, and a byte operand that is none is refused (the refusal's name is the model's, log
5). -/
def Obligations.FrombytesJoinsBigEndian : Prop :=
  (∀ (hi lo : Byte) (s : State), ∃ t w, exec (.frombytes hi lo) s = .next t ∧ Answers s t ⟨.ok, .frombytes w⟩ ∧
      BuffersKept s t ∧ w.toNat = hi.toNat * 256 + lo.toNat) ∧
    (∀ hi lo : Byte, decode ⟨0b011#3, .bb hi.toNat lo.toNat⟩ = .ok (.frombytes hi lo)) ∧
    (∀ (s : State) (rest : List Request) (hi lo : Int), ¬ ((0 ≤ hi ∧ hi ≤ 255) ∧ 0 ≤ lo ∧ lo ≤ 255) →
      s.requests = ⟨0b011#3, .bb hi lo⟩ :: rest → step s = .refused (.badRequest .byteOutOfRange)) ∧
    (∀ s : State, ∃ t, exec (.frombytes 0xFF 0x00) s = .next t ∧ Answers s t ⟨.ok, .frombytes 65280#16⟩) ∧
    ∀ s : State, ∃ t, exec (.frombytes 0xBE 0xEF) s = .next t ∧ Answers s t ⟨.ok, .frombytes 0xBEEF#16⟩

/-- R69: `W2F` answers `OK` with the pattern of its two Words, the first the more significant, bit for bit; distinct
pairs give distinct patterns, and the patterns the rule names are delivered as they are. -/
def Obligations.W2fFormsThePattern : Prop :=
  (∀ (high low : Word) (s : State), ∃ t f, exec (.w2f high low) s = .next t ∧ Answers s t ⟨.ok, .w2f f⟩ ∧
      BuffersKept s t ∧ f.toNat = high.toNat * 65536 + low.toNat) ∧
    (∀ high low : Word, decode ⟨0b100#3, .ww high.toNat low.toNat⟩ = .ok (.w2f high low)) ∧
    (∀ (high low high' low' : Word) (f : Pattern32) (s t t' : State), exec (.w2f high low) s = .next t →
      Answers s t ⟨.ok, .w2f f⟩ → exec (.w2f high' low') s = .next t' → Answers s t' ⟨.ok, .w2f f⟩ →
      high = high' ∧ low = low') ∧
    (∀ p ∈ ([(0x4049, 0x0FDB, 0x40490FDB), (0x8000, 0x0000, 0x80000000), (0x7FC0, 0x0000, 0x7FC00000),
        (0x7F80, 0x0001, 0x7F800001), (0x0000, 0x0001, 0x00000001)] : List (Word × Word × Pattern32)),
      ∀ s : State, ∃ t, exec (.w2f p.1 p.2.1) s = .next t ∧ Answers s t ⟨.ok, .w2f p.2.2⟩)

/-- The round trip of spec/41_word_codec.md, whose second law is marked as derived there: `TOBYTES` and `FROMBYTES`
are inverse of each other, each taken right after the other. -/
def Obligations.SplitAndJoinAreInverse : Prop :=
  (∀ (w : Word) (s : State), ∃ t u hi lo, exec (.tobytes w) s = .next t ∧ Answers s t ⟨.ok, .tobytes hi lo⟩ ∧
      exec (.frombytes hi lo) t = .next u ∧ Answers t u ⟨.ok, .frombytes w⟩) ∧
    ∀ (hi lo : Byte) (s : State), ∃ t u w, exec (.frombytes hi lo) s = .next t ∧
      Answers s t ⟨.ok, .frombytes w⟩ ∧ exec (.tobytes w) t = .next u ∧ Answers t u ⟨.ok, .tobytes hi lo⟩

/-- The helper of spec/41_word_codec.md section 2, marked as derived there: the host's helper from a pattern to two
Words is the inverse of `W2F`, both ways. -/
def Obligations.PatternWordsInvertsW2f : Prop :=
  (∀ (f : Pattern32) (s : State), ∃ t, exec (.w2f (patternWords f).1 (patternWords f).2) s = .next t ∧
      Answers s t ⟨.ok, .w2f f⟩) ∧
    ∀ (high low : Word) (s : State), ∃ t f, exec (.w2f high low) s = .next t ∧ Answers s t ⟨.ok, .w2f f⟩ ∧
      patternWords f = (high, low)

/-- R70: a pattern reads as the binary32 number of its sign, exponent and fraction. The reading is PRESUMED: the
spec supplies it from general knowledge (log 17). -/
def Obligations.PatternReadsAsBinary32 : Prop :=
  ∀ (f : Pattern32) (e m : Nat), e = f.toNat / 2 ^ 23 % 256 → m = f.toNat % 2 ^ 23 →
    (1 ≤ e ∧ e ≤ 254 → (readBinary32 f).value =
      some ((if f.getLsbD 31 then -1 else 1) * (2 : ℚ) ^ ((e : Int) - 127) * (1 + (m : ℚ) / 2 ^ 23))) ∧
    (e = 0 → (readBinary32 f).value =
      some ((if f.getLsbD 31 then -1 else 1) * (2 : ℚ) ^ (-126 : Int) * ((m : ℚ) / 2 ^ 23))) ∧
    (e = 255 ∧ m = 0 → readBinary32 f = .infinite (f.getLsbD 31)) ∧
    (e = 255 ∧ m ≠ 0 → readBinary32 f = .nan (f.getLsbD 22))

/-! The Frame Builder -/

/-- R42, R77: a `BUILD` whose operands are all valid Words answers `OK` with the frame of the rule: every byte at
its offset, nothing after the last triplet, no checksum on the command. The operation's buffers are handed over. -/
def Obligations.BuildEmitsTheFrame : Prop :=
  ∀ (command : Int) (arguments : List Int) (s : State), (Instr.build command arguments).wf s.params = true →
    (0 ≤ command ∧ command ≤ 65535) → (∀ a ∈ arguments, 0 ≤ a ∧ a ≤ 65535) →
    ∃ t out, exec (.build command arguments) s = .next t ∧ Answers s t ⟨.ok, .build out⟩ ∧ BuffersEmpty t ∧
      out.length = 2 + 3 * arguments.length ∧
      out[0]? = some (BitVec.ofInt 8 (command / 256)) ∧ out[1]? = some (BitVec.ofInt 8 (command % 256)) ∧
      ∀ (k : Nat) (a : Int), arguments[k]? = some a →
        out[2 + 3 * k]? = some (BitVec.ofInt 8 (a / 256)) ∧ out[3 + 3 * k]? = some (BitVec.ofInt 8 (a % 256)) ∧
        out[4 + 3 * k]? = some (BitVec.ofNat 8 (refChecksum a.toNat))

/-- R76: if any of the `1 + A` operands is out of range, `BUILD` answers `INVALID_ARGUMENT` with no byte of the
frame, the same response whichever and however many they are. -/
def Obligations.BuildRejectsAnOperandOutOfRange : Prop :=
  ∀ (command : Int) (arguments : List Int) (s : State), (Instr.build command arguments).wf s.params = true →
    (∃ v ∈ command :: arguments, v < 0 ∨ 65536 ≤ v) →
    ∃ t, exec (.build command arguments) s = .next t ∧ Answers s t ⟨.invalidArgument, .build []⟩ ∧ BuffersEmpty t

/-- R17: a `BUILD` with no arguments has the empty argument list, whatever operation came before it. -/
def Obligations.BuildInheritsNoArguments : Prop :=
  ∀ (i : Instr) (s t : State) (command : Word), exec i s = .next t →
    (Instr.build command.toNat []).wf s.params = true →
    ∃ u, exec (.build command.toNat []) t = .next u ∧
      Answers t u ⟨.ok, .build [BitVec.ofNat 8 (command.toNat / 256), BitVec.ofNat 8 (command.toNat % 256)]⟩

/-- How `BUILD` and `PARSE` fit together (spec/42_frame_builder.md, marked as derived there): the frame that `BUILD`
makes of valid Words, less its two command bytes, is the inbound frame of those Words, and `PARSE` answers `OK` with
them. -/
def Obligations.ParseReadsBackWhatBuildMade : Prop :=
  ∀ (command : Word) (args : List Word) (s : State),
    (Instr.build command.toNat (args.map fun w => (w.toNat : Int))).wf s.params = true →
    within s.params.maxRaw (3 * args.length) = true → within s.params.maxWords args.length = true →
    ∃ t u out, exec (.build command.toNat (args.map fun w => (w.toNat : Int))) s = .next t ∧
      Answers s t ⟨.ok, .build out⟩ ∧ out.drop 2 = inboundFrame args ∧
      exec (.parse (out.drop 2) args.length) t = .next u ∧ Answers t u ⟨.ok, .parse args (some false) none⟩

/-! The Frame Parser -/

/-- R86: when no Word is expected, `PARSE` answers `OK` with no Word, whatever the frame holds and under both length
policies. -/
def Obligations.ParseOfNoWordsInspectsNothing : Prop :=
  ∀ (raw : List Byte) (s : State), (Instr.parse raw 0).wf s.params = true →
    ∃ t, exec (.parse raw 0) s = .next t ∧ Answers s t ⟨.ok, .parse [] (some false) none⟩ ∧ BuffersEmpty t

/-- R88: what a length mismatch does. Under `STRICT` the operation ends with `LENGTH_MISMATCH` whatever the frame
holds; under `LENIENT` it is flagged and the whole triplets present are decoded, up to the number expected. -/
def Obligations.LengthMismatchFollowsThePolicy : Prop :=
  ∀ (raw : List Byte) (count : Nat) (s : State), (Instr.parse raw count).wf s.params = true → count ≠ 0 →
    raw.length ≠ 3 * count →
    (s.params.lenPolicy = .strict → ∃ t, exec (.parse raw count) s = .next t ∧
      Answers s t ⟨.lengthMismatch, .parse [] none none⟩ ∧ BuffersEmpty t) ∧
    (s.params.lenPolicy = .lenient → ∃ t r, exec (.parse raw count) s = .next t ∧ Answers s t r ∧ BuffersEmpty t ∧
      ((∃ ws, ws.length = min count (raw.length / 3) ∧ r = ⟨.ok, .parse ws (some true) none⟩) ∨
        ∃ k < min count (raw.length / 3), r = ⟨.checksumMismatch, .parse [] none (some k)⟩))

/-- R90: the first triplet whose third byte is not the checksum of its Word ends the operation with its index, and
no Word is delivered. `T` is the number of triplets to decode (R89). -/
def Obligations.FirstBadTripletEndsTheParse : Prop :=
  ∀ (raw : List Byte) (count T k : Nat) (s : State), (Instr.parse raw count).wf s.params = true → count ≠ 0 →
    (raw.length = 3 * count ∧ T = count) ∨
      (raw.length ≠ 3 * count ∧ s.params.lenPolicy = .lenient ∧ T = min count (raw.length / 3)) →
    k < T → (∀ j < k, TripletValid raw j) → TripletBad raw k →
    ∃ t, exec (.parse raw count) s = .next t ∧ Answers s t ⟨.checksumMismatch, .parse [] none (some k)⟩ ∧
      BuffersEmpty t

/-- R89: when all the triplets to decode verify, `PARSE` answers `OK` with exactly `T` Words, in order: all of them
when the length is right, else as many whole triplets as are present and not more than expected. -/
def Obligations.ParseDeliversTheTripletsPresent : Prop :=
  ∀ (raw : List Byte) (count T : Nat) (s : State), (Instr.parse raw count).wf s.params = true → count ≠ 0 →
    (raw.length = 3 * count ∧ T = count) ∨
      (raw.length ≠ 3 * count ∧ s.params.lenPolicy = .lenient ∧ T = min count (raw.length / 3)) →
    (∀ j < T, TripletValid raw j) →
    ∃ t ws, exec (.parse raw count) s = .next t ∧
      Answers s t ⟨.ok, .parse ws (some (decide (raw.length ≠ 3 * count))) none⟩ ∧ BuffersEmpty t ∧
      ws.length = T ∧ WordsOf raw ws ∧
      (raw.length ≠ 3 * count → raw.length < 3 → ws = [])

/-- R91: what an `OK` response of `PARSE` means: the number of Words is `N`, or `T` when the length was flagged;
each is the Word at its place in the frame, and each place's third byte is its checksum. -/
def Obligations.SuccessfulParseMeansVerifiedWords : Prop :=
  ∀ (raw : List Byte) (count : Nat) (s t : State) (ws : List Word) (flag : Bool),
    exec (.parse raw count) s = .next t → Answers s t ⟨.ok, .parse ws (some flag) none⟩ →
    ws.length = (if flag then min count (raw.length / 3) else count) ∧ WordsOf raw ws ∧
      (∀ i < ws.length, TripletValid raw i) ∧
      (flag = true → s.params.lenPolicy = .lenient ∧ raw.length ≠ 3 * count)

/-- R25: no operation reads or writes outside a buffer (every buffer access answers, so none ends in the fault for
it), and under `LENIENT` the bytes left over after the last whole triplet make no difference. -/
def Obligations.NoAccessOutsideABuffer : Prop :=
  (∀ (i : Instr) (s : State) (why : Fault), exec i s ≠ .fault why) ∧
    (∀ (s : State) (why : Fault), step s ≠ .fault why) ∧
    ∀ (raw rest rest' : List Byte) (count : Nat) (s : State) (r : Response), s.params.lenPolicy = .lenient →
      raw.length % 3 = 0 → raw.length < 3 * count → rest.length < 3 → rest'.length < 3 →
      (Instr.parse (raw ++ rest) count).wf s.params = true → (Instr.parse (raw ++ rest') count).wf s.params = true →
      ((∃ t, exec (.parse (raw ++ rest) count) s = .next t ∧ Answers s t r) ↔
        ∃ t, exec (.parse (raw ++ rest') count) s = .next t ∧ Answers s t r)

/-- The detection guarantee of spec/43_frame_parser.md, marked as derived there: flip any one bit of a frame of
valid triplets: `PARSE`, which answered `OK`, answers `CHECKSUM_MISMATCH` with the index of the triplet the bit is
in. -/
def Obligations.SingleBitFlipOfAFrameIsDetected : Prop :=
  ∀ (raw : List Byte) (count p k : Nat) (s : State), (Instr.parse raw count).wf s.params = true → 1 ≤ count →
    raw.length = 3 * count → (∀ i < count, TripletValid raw i) → p < raw.length → k < 8 →
    (∃ t ws, exec (.parse raw count) s = .next t ∧ Answers s t ⟨.ok, .parse ws (some false) none⟩) ∧
      ∃ t, exec (.parse (flipBit raw p k) count) s = .next t ∧
        Answers s t ⟨.checksumMismatch, .parse [] none (some (p / 3))⟩

/-- The byte offsets of spec/20_memory.md section 2, marked as derived there: float number `j` of a parsed frame,
formed from its Words `2j` and `2j+1`, has its four bytes at the offsets `6j`, `6j+1`, `6j+3` and `6j+4` of the
frame, the most significant first. -/
def Obligations.FloatBytesStandAtTheirOffsets : Prop :=
  ∀ (raw : List Byte) (count j : Nat) (s t : State) (ws : List Word) (flag : Bool) (high low : Word),
    exec (.parse raw count) s = .next t → Answers s t ⟨.ok, .parse ws (some flag) none⟩ →
    ws[2 * j]? = some high → ws[2 * j + 1]? = some low →
    ∃ u f, exec (.w2f high low) t = .next u ∧ Answers t u ⟨.ok, .w2f f⟩ ∧
      raw[6 * j]? = some (f.extractLsb' 24 8) ∧ raw[6 * j + 1]? = some (f.extractLsb' 16 8) ∧
      raw[6 * j + 3]? = some (f.extractLsb' 8 8) ∧ raw[6 * j + 4]? = some (f.extractLsb' 0 8) ∧
      raw[6 * j + 2]? = some (checksum high) ∧ raw[6 * j + 5]? = some (checksum low)

/-! Statuses, priority, frames and the whole block -/

/-- R100: the numbers of the status field. -/
def Obligations.StatusNumbers : Prop :=
  statusCode .ok = 0 ∧ statusCode .invalidArgument = 1 ∧ statusCode .lengthMismatch = 2 ∧
    statusCode .checksumMismatch = 3

/-- R106 and its table, R101, R102: which operation answers with which status and when; a fault delivers no data,
and its whole effect is its response. `T` of R89 is written out. -/
def Obligations.FaultTable : Prop :=
  ∀ (i : Instr) (s t : State), exec i s = .next t → ∃ r, Answers s t r ∧
    match i with
    | .crc8 _ => r.status = .ok ∧ BuffersKept s t
    | .crcchk _ _ => r.status = .ok ∧ BuffersKept s t
    | .tobytes _ => r.status = .ok ∧ BuffersKept s t
    | .frombytes _ _ => r.status = .ok ∧ BuffersKept s t
    | .w2f _ _ => r.status = .ok ∧ BuffersKept s t
    | .build command arguments =>
      (r.status = .invalidArgument ↔ ∃ v ∈ command :: arguments, v < 0 ∨ 65535 < v) ∧
        r.status ≠ .lengthMismatch ∧ r.status ≠ .checksumMismatch ∧
        (r.status = .invalidArgument → r.results = .build []) ∧ BuffersEmpty t
    | .parse raw count =>
      r.status ≠ .invalidArgument ∧
        (r.status = .lengthMismatch ↔ s.params.lenPolicy = .strict ∧ count ≠ 0 ∧ raw.length ≠ 3 * count) ∧
        (r.status = .lengthMismatch → r.results = .parse [] none none) ∧
        (r.status = .checksumMismatch ↔ count ≠ 0 ∧
          (raw.length = 3 * count ∨ s.params.lenPolicy = .lenient) ∧
          ∃ k < (if raw.length = 3 * count then count else min count (raw.length / 3)), TripletBad raw k) ∧
        (r.status = .checksumMismatch → ∃ k, r.results = .parse [] none (some k) ∧ TripletBad raw k ∧
          ∀ j < k, TripletValid raw j) ∧
        (r.status = .ok → ∃ ws, r.results = .parse ws (some (decide (count ≠ 0 ∧ raw.length ≠ 3 * count))) none) ∧
        BuffersEmpty t
    | .reserved7 => False

/-- R110: when several conditions hold in one operation, exactly one outcome is reported, chosen in the rule's
order. -/
def Obligations.OneOutcomeByPriority : Prop :=
  (∀ (command : Int) (arguments : List Int) (s : State), (Instr.build command arguments).wf s.params = true →
    ∃ t r, exec (.build command arguments) s = .next t ∧ Answers s t r ∧
      r.status = if ∃ v ∈ command :: arguments, v < 0 ∨ 65535 < v then .invalidArgument else .ok) ∧
  ∀ (raw : List Byte) (count T : Nat) (s : State), (Instr.parse raw count).wf s.params = true →
    T = (if raw.length = 3 * count then count else min count (raw.length / 3)) →
    ∃ t r, exec (.parse raw count) s = .next t ∧ Answers s t r ∧
      if count = 0 then r = ⟨.ok, .parse [] (some false) none⟩
      else if s.params.lenPolicy = .strict ∧ raw.length ≠ 3 * count then
        r = ⟨.lengthMismatch, .parse [] none none⟩
      else
        (∃ k < T, TripletBad raw k ∧ (∀ j < k, TripletValid raw j) ∧
          r = ⟨.checksumMismatch, .parse [] none (some k)⟩) ∨
        ((∀ j < T, TripletValid raw j) ∧
          ∃ ws, r = ⟨.ok, .parse ws (some (decide (raw.length ≠ 3 * count))) none⟩)

/-- Frame of the scalar operations `CRC8`, `CRCCHK`, `TOBYTES`, `FROMBYTES` and `W2F`: one response is added; the
earlier responses, the host's requests, the parameters and every byte of every buffer are unchanged (R20). `crc` and
`idx` are unspecified after every operation (R19). -/
def Obligations.ScalarOperationsLeaveEverythingElse : Prop :=
  ∀ (i : Instr) (s t : State),
    (∃ w, i = .crc8 w) ∨ (∃ w c, i = .crcchk w c) ∨ (∃ w, i = .tobytes w) ∨ (∃ hi lo, i = .frombytes hi lo) ∨
      (∃ hi lo, i = .w2f hi lo) →
    exec i s = .next t → ∃ r, Answers s t r ∧ BuffersKept s t

/-- Frame of `BUILD` and `PARSE`: one response is added; the earlier responses, the host's requests and the
parameters are unchanged; the buffers are handed over and the block keeps no copy (R21, R80, R127). -/
def Obligations.FrameOperationsKeepNoCopy : Prop :=
  ∀ (i : Instr) (s t : State), (∃ c as, i = .build c as) ∨ (∃ raw n, i = .parse raw n) →
    exec i s = .next t → ∃ r, Answers s t r ∧ BuffersEmpty t

/-- R10: the response of every operation is a function of that operation's request alone, and of the parameters: two
states with the same parameters, whatever else they hold, give the same response, or the same refusal. -/
def Obligations.ResponseDependsOnTheRequestAlone : Prop :=
  ∀ (i : Instr) (s s' : State), s.params = s'.params →
    (∀ r, (∃ t, exec i s = .next t ∧ Answers s t r) ↔ ∃ t, exec i s' = .next t ∧ Answers s' t r) ∧
      ∀ why, exec i s = .refused why ↔ exec i s' = .refused why

/-- R107: the request after another, a faulted one too, is answered exactly as if the first had never been issued.
-/
def Obligations.NothingIsSticky : Prop :=
  ∀ (i j : Instr) (s t : State) (r : Response), exec i s = .next t →
    ((∃ u, exec j t = .next u ∧ Answers t u r) ↔ ∃ u, exec j s = .next u ∧ Answers s u r)

/-- Termination (spec/70_reset_and_hazards.md section 4, marked as derived there): every admitted operation ends
with exactly one response. -/
def Obligations.EveryAdmittedOperationAnswers : Prop :=
  ∀ (i : Instr) (s : State), i ≠ .reserved7 → i.wf s.params = true → ∃ t r, exec i s = .next t ∧ Answers s t r

/-- R28, R133: requests queued by the host are answered one at a time in the order they were issued, one step each,
and the response to each depends on that request only. -/
def Obligations.QueuedRequestsAreAnsweredInOrder : Prop :=
  ∀ (ops : List Instr) (s : State), (∀ i ∈ ops, i ≠ .reserved7 ∧ i.wf s.params = true) →
    s.requests = ops.map encode →
    ∃ (t : State) (rs : List Response), Host.Core.run Sys2Proof.core ops.length s = .next t ∧ t.requests = [] ∧
      t.params = s.params ∧ t.responses = s.responses ++ rs ∧
      List.Forall₂ (fun i r => ∀ s' : State, s'.params = s.params → ∃ t', exec i s' = .next t' ∧ Answers s' t' r) ops rs

/-- R6, R48: an implementation with legal parameters serves every command the spec lists: its frame is built, and
its response frame is admitted. -/
def Obligations.ListedCommandsAreServed : Prop :=
  ∀ (s : State) (d : CommandDescriptor) (args : List Word) (raw : List Byte), s.params.legal = true →
    d ∈ commandDescriptors → args.length = d.argumentsSent → raw.length = 3 * d.expectedWordCount →
    (∃ t out, exec (.build d.code.toNat (args.map fun w => (w.toNat : Int))) s = .next t ∧
      Answers s t ⟨.ok, .build out⟩ ∧ out.length = 2 + 3 * d.argumentsSent) ∧
    ∃ t r, exec (.parse raw d.expectedWordCount) s = .next t ∧ Answers s t r
end

