-- ==== Sys2Proof/Laws/State.lean ====
section
/-!
SUPPORT. One lemma per field per update of the state, so that no proof unfolds a record update.
-/

namespace Sys2Proof.Machine

section
variable (word : Word) (s : State)

@[simp] theorem appendWord_params : (appendWord word s).params = s.params := rfl
@[simp] theorem appendWord_requests : (appendWord word s).requests = s.requests := rfl
@[simp] theorem appendWord_responses : (appendWord word s).responses = s.responses := rfl
@[simp] theorem appendWord_crc : (appendWord word s).crc = s.crc := rfl
@[simp] theorem appendWord_idx : (appendWord word s).idx = s.idx := rfl
@[simp] theorem appendWord_raw : (appendWord word s).raw = s.raw := rfl
@[simp] theorem appendWord_out : (appendWord word s).out = s.out := rfl
@[simp] theorem appendWord_words : (appendWord word s).words = s.words ++ [word] := rfl
@[simp] theorem appendWord_fresh : (appendWord word s).fresh = s.fresh := rfl

end

section
variable (s : State)

@[simp] theorem bumpIdx_params : (bumpIdx s).params = s.params := rfl
@[simp] theorem bumpIdx_requests : (bumpIdx s).requests = s.requests := rfl
@[simp] theorem bumpIdx_responses : (bumpIdx s).responses = s.responses := rfl
@[simp] theorem bumpIdx_crc : (bumpIdx s).crc = s.crc := rfl
@[simp] theorem bumpIdx_idx : (bumpIdx s).idx = s.idx + 1 := rfl
@[simp] theorem bumpIdx_raw : (bumpIdx s).raw = s.raw := rfl
@[simp] theorem bumpIdx_out : (bumpIdx s).out = s.out := rfl
@[simp] theorem bumpIdx_words : (bumpIdx s).words = s.words := rfl
@[simp] theorem bumpIdx_fresh : (bumpIdx s).fresh = s.fresh := rfl

end

section
variable (s : State)

@[simp] theorem openOut_params : (openOut s).params = s.params := rfl
@[simp] theorem openOut_requests : (openOut s).requests = s.requests := rfl
@[simp] theorem openOut_responses : (openOut s).responses = s.responses := rfl
@[simp] theorem openOut_crc : (openOut s).crc = s.crc := rfl
@[simp] theorem openOut_idx : (openOut s).idx = 0 := rfl
@[simp] theorem openOut_raw : (openOut s).raw = s.raw := rfl
@[simp] theorem openOut_out : (openOut s).out = [] := rfl
@[simp] theorem openOut_words : (openOut s).words = s.words := rfl
@[simp] theorem openOut_fresh : (openOut s).fresh = s.fresh := rfl

end

section
variable (raw : List Byte) (s : State)

@[simp] theorem openRaw_params : (openRaw raw s).params = s.params := rfl
@[simp] theorem openRaw_requests : (openRaw raw s).requests = s.requests := rfl
@[simp] theorem openRaw_responses : (openRaw raw s).responses = s.responses := rfl
@[simp] theorem openRaw_crc : (openRaw raw s).crc = s.crc := rfl
@[simp] theorem openRaw_idx : (openRaw raw s).idx = 0 := rfl
@[simp] theorem openRaw_raw : (openRaw raw s).raw = raw := rfl
@[simp] theorem openRaw_out : (openRaw raw s).out = s.out := rfl
@[simp] theorem openRaw_words : (openRaw raw s).words = [] := rfl
@[simp] theorem openRaw_fresh : (openRaw raw s).fresh = s.fresh := rfl

end

section
variable (s : State)

@[simp] theorem closeBuffers_params : (closeBuffers s).params = s.params := rfl
@[simp] theorem closeBuffers_requests : (closeBuffers s).requests = s.requests := rfl
@[simp] theorem closeBuffers_responses : (closeBuffers s).responses = s.responses := rfl
@[simp] theorem closeBuffers_crc : (closeBuffers s).crc = s.crc := rfl
@[simp] theorem closeBuffers_idx : (closeBuffers s).idx = s.idx := rfl
@[simp] theorem closeBuffers_raw : (closeBuffers s).raw = [] := rfl
@[simp] theorem closeBuffers_out : (closeBuffers s).out = [] := rfl
@[simp] theorem closeBuffers_words : (closeBuffers s).words = [] := rfl
@[simp] theorem closeBuffers_fresh : (closeBuffers s).fresh = s.fresh := rfl

end

section
variable (r : Response) (s : State)

@[simp] theorem respond_params : (respond r s).params = s.params := rfl
@[simp] theorem respond_requests : (respond r s).requests = s.requests := rfl
@[simp] theorem respond_responses : (respond r s).responses = s.responses ++ [r] := rfl
@[simp] theorem respond_crc : (respond r s).crc = Config.freeCrc s.fresh := rfl
@[simp] theorem respond_idx : (respond r s).idx = Config.freeIdx s.fresh := rfl
@[simp] theorem respond_raw : (respond r s).raw = s.raw := rfl
@[simp] theorem respond_out : (respond r s).out = s.out := rfl
@[simp] theorem respond_words : (respond r s).words = s.words := rfl
@[simp] theorem respond_fresh : (respond r s).fresh = s.fresh + 1 := rfl

end

section
variable (r : Response) (s : State)

@[simp] theorem deliver_params : (deliver r s).params = s.params := rfl
@[simp] theorem deliver_requests : (deliver r s).requests = s.requests := rfl
@[simp] theorem deliver_responses : (deliver r s).responses = s.responses ++ [r] := rfl
@[simp] theorem deliver_crc : (deliver r s).crc = Config.freeCrc s.fresh := rfl
@[simp] theorem deliver_idx : (deliver r s).idx = Config.freeIdx s.fresh := rfl
@[simp] theorem deliver_raw : (deliver r s).raw = [] := rfl
@[simp] theorem deliver_out : (deliver r s).out = [] := rfl
@[simp] theorem deliver_words : (deliver r s).words = [] := rfl
@[simp] theorem deliver_fresh : (deliver r s).fresh = s.fresh + 1 := rfl

end

section
variable (status : Status) (noData : Results) (s : State)

@[simp] theorem raise_params : (raise status noData s).params = s.params := rfl
@[simp] theorem raise_requests : (raise status noData s).requests = s.requests := rfl
@[simp] theorem raise_responses : (raise status noData s).responses = s.responses ++ [{ status := status, results := noData }] := rfl
@[simp] theorem raise_crc : (raise status noData s).crc = Config.freeCrc s.fresh := rfl
@[simp] theorem raise_idx : (raise status noData s).idx = Config.freeIdx s.fresh := rfl
@[simp] theorem raise_raw : (raise status noData s).raw = [] := rfl
@[simp] theorem raise_out : (raise status noData s).out = [] := rfl
@[simp] theorem raise_words : (raise status noData s).words = [] := rfl
@[simp] theorem raise_fresh : (raise status noData s).fresh = s.fresh + 1 := rfl

end

section
variable (s : State)

@[simp] theorem loadCrc_params : (loadCrc s).params = s.params := rfl
@[simp] theorem loadCrc_requests : (loadCrc s).requests = s.requests := rfl
@[simp] theorem loadCrc_responses : (loadCrc s).responses = s.responses := rfl
@[simp] theorem loadCrc_crc : (loadCrc s).crc = crcInit := rfl
@[simp] theorem loadCrc_idx : (loadCrc s).idx = s.idx := rfl
@[simp] theorem loadCrc_raw : (loadCrc s).raw = s.raw := rfl
@[simp] theorem loadCrc_out : (loadCrc s).out = s.out := rfl
@[simp] theorem loadCrc_words : (loadCrc s).words = s.words := rfl
@[simp] theorem loadCrc_fresh : (loadCrc s).fresh = s.fresh := rfl

end

section
variable (b : Byte) (s : State)

@[simp] theorem feedByte_params : (feedByte b s).params = s.params := rfl
@[simp] theorem feedByte_requests : (feedByte b s).requests = s.requests := rfl
@[simp] theorem feedByte_responses : (feedByte b s).responses = s.responses := rfl
@[simp] theorem feedByte_crc : (feedByte b s).crc = crcFeed b s.crc := rfl
@[simp] theorem feedByte_idx : (feedByte b s).idx = s.idx := rfl
@[simp] theorem feedByte_raw : (feedByte b s).raw = s.raw := rfl
@[simp] theorem feedByte_out : (feedByte b s).out = s.out := rfl
@[simp] theorem feedByte_words : (feedByte b s).words = s.words := rfl
@[simp] theorem feedByte_fresh : (feedByte b s).fresh = s.fresh := rfl

end

section
variable (word : Word) (s : State)

@[simp] theorem runEngine_params : (runEngine word s).params = s.params := rfl
@[simp] theorem runEngine_requests : (runEngine word s).requests = s.requests := rfl
@[simp] theorem runEngine_responses : (runEngine word s).responses = s.responses := rfl
@[simp] theorem runEngine_crc : (runEngine word s).crc = checksum word := rfl
@[simp] theorem runEngine_idx : (runEngine word s).idx = s.idx := rfl
@[simp] theorem runEngine_raw : (runEngine word s).raw = s.raw := rfl
@[simp] theorem runEngine_out : (runEngine word s).out = s.out := rfl
@[simp] theorem runEngine_words : (runEngine word s).words = s.words := rfl
@[simp] theorem runEngine_fresh : (runEngine word s).fresh = s.fresh := rfl

end

/-- What a delivered state holds: it depends on the parameters, the host's side and `fresh` alone, so the transient
registers and the buffers of the operation leave no trace (R10). -/
theorem deliver_congr (r : Response) {s s' : State} (hp : s.params = s'.params) (hq : s.requests = s'.requests)
    (hr : s.responses = s'.responses) (hf : s.fresh = s'.fresh) : deliver r s = deliver r s' := by
  simp [deliver, respond, closeBuffers, hp, hq, hr, hf]

/-- Delivering a response answers with it. -/
theorem answers_respond (r : Response) (s : State) : Answers s (respond r s) r := ⟨rfl, rfl, rfl⟩

/-- A scalar operation touches no buffer. -/
theorem buffersKept_respond (r : Response) (s : State) : BuffersKept s (respond r s) := ⟨rfl, rfl, rfl⟩

/-- Delivering a response with a hand-over answers with it. -/
theorem answers_deliver (r : Response) (s : State) : Answers s (deliver r s) r := ⟨rfl, rfl, rfl⟩

/-- The hand-over leaves no byte in the block. -/
theorem buffersEmpty_deliver (r : Response) (s : State) : BuffersEmpty (deliver r s) := ⟨rfl, rfl, rfl⟩

/-- A state answers with one response. -/
theorem Answers.response_unique {s t : State} {r r' : Response} (h : Answers s t r)
    (h' : t.responses = s.responses ++ [r']) : r = r' := by
  have := h.responses.symm.trans h'
  simpa using this

/-- One inversion lemma for a sequenced operation: it answers a next state only through one of its first part. -/
theorem andThen_eq_next {r : Result} {f : State → Result} {t : State} (h : andThen r f = .next t) :
    ∃ s, r = .next s ∧ f s = .next t := by
  cases r with
  | next s => exact ⟨s, rfl, h⟩
  | fault why => cases h
  | refused why => cases h

/-- One inversion lemma for admission: the operation is admitted and runs, or the answer is the refusal. -/
theorem ifAdmitted_cases (i : Instr) (s : State) (f : State → Result) :
    (i.wf s.params = true ∧ ifAdmitted i s f = f s) ∨
      (∃ why, i.inadmissible s.params = some why ∧ ifAdmitted i s f = .refused (.notAdmitted why)) := by
  unfold ifAdmitted Instr.wf
  cases h : i.inadmissible s.params with
  | none => exact .inl ⟨rfl, rfl⟩
  | some why => exact .inr ⟨why, rfl, rfl⟩

/-- An admitted operation runs. -/
theorem ifAdmitted_of_wf {i : Instr} {s : State} (f : State → Result) (h : i.wf s.params = true) : ifAdmitted i s f = f s := by
  obtain ⟨-, h'⟩ | ⟨why, hw, -⟩ := ifAdmitted_cases i s f
  · exact h'
  · simp [Instr.wf, hw] at h

end Sys2Proof.Machine
end

