-- ==== Sys2Proof/Laws/Buffers.lean ====
section
/-!
SUPPORT. The buffer accesses: what `MemRead` and `MemWrite` do, and that a buffer's pairs are in canonical form.
-/

namespace Sys2Proof.Machine

/-- R8: a read answers exactly when it lies inside the buffer. -/
theorem memRead_isSome_iff (buf : List Byte) (a n : Nat) : (memRead buf a n).isSome = true ↔ a + n ≤ buf.length := by
  unfold memRead
  split <;> simp_all

/-- R85: the three bytes of a triplet, when it is whole. -/
theorem memRead_three {buf : List Byte} {a : Nat} (h : a + 3 ≤ buf.length) :
    ∃ msb lsb crc, memRead buf a 3 = some [msb, lsb, crc] ∧ buf[a]? = some msb ∧ buf[a + 1]? = some lsb ∧
      buf[a + 2]? = some crc := by
  refine ⟨buf[a], buf[a + 1], buf[a + 2], ?_, ?_, ?_, ?_⟩
  · rw [memRead, if_pos h]
    apply congrArg some
    apply List.ext_getElem
    · simp; omega
    · intro i h1 h2
      match i with
      | 0 => simp
      | 1 => simp
      | 2 => simp
      | i + 3 => simp at h2
  all_goals exact List.getElem?_eq_getElem _

/-- R8: a write inside the buffer or at its end answers. -/
theorem memWrite_isSome_iff (buf : List Byte) (a : Nat) (bytes : List Byte) :
    (memWrite buf a bytes).isSome = true ↔ a ≤ buf.length := by
  unfold memWrite
  split <;> simp_all

/-- R20: a write at the end of a buffer makes it longer and leaves every byte before it. -/
theorem memWrite_end {buf : List Byte} {a : Nat} (bytes : List Byte) (h : buf.length = a) :
    memWrite buf a bytes = some (buf ++ bytes) := by
  subst h
  simp [memWrite]

/-- R8: after a write, an offset inside what was stored holds the byte stored there. -/
theorem memWrite_get_stored {buf buf' : List Byte} {a : Nat} {bytes : List Byte} (h : memWrite buf a bytes = some buf')
    {k : Nat} (hk : k < bytes.length) : buf'[a + k]? = bytes[k]? := by
  unfold memWrite at h
  split at h
  · obtain rfl := Option.some.inj h
    rw [List.append_assoc, List.getElem?_append_right (by simp), List.getElem?_append_left (by simp; omega)]
    congr 1
    simp
    omega
  · cases h

/-- R8: after a write, every other offset holds what it held. -/
theorem memWrite_get_other {buf buf' : List Byte} {a : Nat} {bytes : List Byte} (h : memWrite buf a bytes = some buf')
    {k : Nat} (hk : k < a ∨ a + bytes.length ≤ k) : buf'[k]? = buf[k]? := by
  unfold memWrite at h
  split at h
  case isTrue ha =>
    obtain rfl := Option.some.inj h
    obtain hk | hk := hk
    · rw [List.append_assoc, List.getElem?_append_left (by simp; omega), List.getElem?_take_of_lt hk]
    · rw [List.getElem?_append_right (by simp; omega), List.getElem?_drop]
      congr 1
      simp
      omega
  case isFalse => cases h

/-- Storing at the end of `OUT` is appending to it. -/
theorem writeOut_end {a : Nat} (bytes : List Byte) {s : State} (h : s.out.length = a) :
    writeOut a bytes s = .next { s with out := s.out ++ bytes } := by
  rw [writeOut, memWrite_end bytes h]

/-- Every buffer is in canonical form whatever was done to it: its pairs' offsets are strictly rising. -/
theorem memory_cells_wf (buf : List Byte) : Memory.wf (Memory.cells buf) = true := by
  unfold Memory.wf Memory.cells
  rw [decide_eq_true_eq, List.pairwise_map, List.pairwise_iff_getElem]
  intro i j hi hj hij
  simpa using hij

/-- A buffer is known by its pairs: equal memories are equal data. -/
theorem memory_cells_injective : Function.Injective Memory.cells := by
  intro a b h
  have := congrArg (List.map Prod.snd) h
  simpa [Memory.cells, List.map_map, Function.comp_def] using this

/-- The pairs of the buffers after reset are in canonical form. -/
theorem memory_reset_wf : Memory.wf (Memory.cells State.reset.raw) = true ∧
    Memory.wf (Memory.cells State.reset.out) = true :=
  ⟨memory_cells_wf _, memory_cells_wf _⟩

end Sys2Proof.Machine
end

