-- ==== Sys2Proof/Laws/Checksum.lean ====
section
/-!
SUPPORT. The Checksum Engine: what it leaves in the state, and the linearity of its steps.
-/

namespace Sys2Proof.Machine

/-- Everything the engine does to the state: the working register holds the checksum, nothing else changed. -/
theorem runEngine_eq (word : Word) (s : State) : runEngine word s = { s with crc := checksum word } := by
  rfl

/-- A shift step distributes over XOR. -/
theorem crcShift_xor (a b : Byte) : crcShift (a ^^^ b) = crcShift a ^^^ crcShift b := by
  unfold crcShift
  rw [BitVec.getLsbD_xor, BitVec.shiftLeft_xor_distrib]
  cases a.getLsbD 7 <;> cases b.getLsbD 7 <;> simp
  · ac_rfl
  · ac_rfl
  · rw [show a <<< 1 ^^^ crcPoly ^^^ (b <<< 1 ^^^ crcPoly) = a <<< 1 ^^^ b <<< 1 ^^^ (crcPoly ^^^ crcPoly) by ac_rfl]
    simp

/-- Any number of shift steps distributes over XOR. -/
theorem crcShifts_xor (n : Nat) (a b : Byte) : crcShifts n (a ^^^ b) = crcShifts n a ^^^ crcShifts n b := by
  induction n generalizing a b with
  | zero => rfl
  | succ n ih => simp only [crcShifts, crcShift_xor, ih]

/-- No shift step makes something of zero. -/
theorem crcShifts_zero (n : Nat) : crcShifts n 0 = 0 := by
  induction n with
  | zero => rfl
  | succ n ih => exact ih

/-- The checksum as eight shifts of each byte (R57). -/
theorem checksum_eq_crcByte (word : Word) :
    checksum word = crcByte (crcByte (crcInit ^^^ hiByte word) ^^^ loByte word) := rfl

end Sys2Proof.Machine
end

