-- ==== Sys2Proof/Laws/Operands.lean ====
section
/-!
SUPPORT. Operand assembly: when an integer is a Word or a Byte, and taking Words apart and together.
-/

namespace Sys2Proof

/-- R45: an integer is a Word exactly when it is that Word's value. -/
theorem asWord_eq_some_iff (v : Int) (w : Word) : asWord v = some w ↔ v = (w.toNat : Int) := by
  unfold asWord
  have := w.isLt
  split
  · rw [Option.some_inj]
    constructor
    · rintro rfl
      simp only [BitVec.toNat_ofNat]
      omega
    · rintro rfl
      simp
  · simp only [reduceCtorEq, false_iff]
    omega

@[simp] theorem asWord_toNat (w : Word) : asWord (w.toNat : Int) = some w := (asWord_eq_some_iff _ _).2 rfl

/-- R45: an integer outside [0, 65535] is no Word. -/
theorem asWord_eq_none_iff (v : Int) : asWord v = none ↔ ¬ (0 ≤ v ∧ v ≤ 65535) := by
  unfold asWord
  split <;> simp_all

/-- R37: an integer is a Byte exactly when it is that Byte's value. -/
theorem asByte_eq_some_iff (v : Int) (b : Byte) : asByte v = some b ↔ v = (b.toNat : Int) := by
  unfold asByte
  have := b.isLt
  split
  · rw [Option.some_inj]
    constructor
    · rintro rfl
      simp only [BitVec.toNat_ofNat]
      omega
    · rintro rfl
      simp
  · simp only [reduceCtorEq, false_iff]
    omega

@[simp] theorem asByte_toNat (b : Byte) : asByte (b.toNat : Int) = some b := (asByte_eq_some_iff _ _).2 rfl

/-- R37: an integer outside [0, 255] is no Byte. -/
theorem asByte_eq_none_iff (v : Int) : asByte v = none ↔ ¬ (0 ≤ v ∧ v ≤ 255) := by
  unfold asByte
  split <;> simp_all

/-- R37: a sequence is a sequence of Bytes exactly when it is their values. -/
theorem asBytes_eq_some_iff (vs : List Int) (bs : List Byte) :
    asBytes vs = some bs ↔ vs = bs.map fun b => (b.toNat : Int) := by
  induction vs generalizing bs with
  | nil => cases bs <;> simp [asBytes]
  | cons v rest ih =>
    have hb (b : Byte) (bs : List Byte) : asBytes (v :: rest) = some (b :: bs) ↔
        asByte v = some b ∧ asBytes rest = some bs := by
      rw [asBytes]
      cases asByte v <;> cases asBytes rest <;> simp
    cases bs with
    | nil =>
      rw [asBytes]
      cases asByte v <;> cases asBytes rest <;> simp
    | cons b bs => simp [hb, ih, asByte_eq_some_iff]

namespace Machine

/-- R76: the arguments are Words exactly when they are the Words' values. -/
theorem argumentWords_eq_some_iff (vs : List Int) (ws : List Word) :
    argumentWords vs = some ws ↔ vs = ws.map fun w => (w.toNat : Int) := by
  induction vs generalizing ws with
  | nil => cases ws <;> simp [argumentWords]
  | cons v rest ih =>
    have hb (w : Word) (ws : List Word) : argumentWords (v :: rest) = some (w :: ws) ↔
        asWord v = some w ∧ argumentWords rest = some ws := by
      rw [argumentWords]
      cases asWord v <;> cases argumentWords rest <;> simp
    cases ws with
    | nil =>
      rw [argumentWords]
      cases asWord v <;> cases argumentWords rest <;> simp
    | cons w ws => simp [hb, ih, asWord_eq_some_iff]

/-- R76: the arguments are not all Words exactly when one of them is out of range. -/
theorem argumentWords_eq_none_iff (vs : List Int) :
    argumentWords vs = none ↔ ∃ v ∈ vs, ¬ (0 ≤ v ∧ v ≤ 65535) := by
  induction vs with
  | nil => simp [argumentWords]
  | cons v rest ih =>
    have : argumentWords (v :: rest) = none ↔ asWord v = none ∨ argumentWords rest = none := by
      rw [argumentWords]
      cases asWord v <;> cases argumentWords rest <;> simp
    rw [this, asWord_eq_none_iff, ih]
    simp only [List.mem_cons, exists_eq_or_imp]

/-- R76: the operands of a `BUILD` are Words exactly when they are the Words' values. -/
theorem buildWords_eq_some_iff (command : Int) (arguments : List Int) (c : Word) (ws : List Word) :
    buildWords command arguments = some (c, ws) ↔
      command = (c.toNat : Int) ∧ arguments = ws.map fun w => (w.toNat : Int) := by
  rw [← asWord_eq_some_iff, ← argumentWords_eq_some_iff]
  unfold buildWords
  cases asWord command <;> cases argumentWords arguments <;> simp

/-- R76: one operand of a `BUILD` out of range is enough. -/
theorem buildWords_eq_none_iff (command : Int) (arguments : List Int) :
    buildWords command arguments = none ↔ ∃ v ∈ command :: arguments, ¬ (0 ≤ v ∧ v ≤ 65535) := by
  have : buildWords command arguments = none ↔ asWord command = none ∨ argumentWords arguments = none := by
    unfold buildWords
    cases asWord command <;> cases argumentWords arguments <;> simp
  rw [this, asWord_eq_none_iff, argumentWords_eq_none_iff]
  simp only [List.mem_cons, exists_eq_or_imp]

@[simp] theorem hiByte_joinBytes (msb lsb : Byte) : hiByte (joinBytes msb lsb) = msb := by
  ext i hi
  simp [hiByte, joinBytes, BitVec.getElem_extractLsb', BitVec.getLsbD_eq_getElem hi,
    show 8 + i < 16 by omega]

@[simp] theorem loByte_joinBytes (msb lsb : Byte) : loByte (joinBytes msb lsb) = lsb := by
  ext i hi
  simp [loByte, joinBytes, BitVec.getElem_extractLsb', hi]
  omega

@[simp] theorem joinBytes_hiByte_loByte (word : Word) : joinBytes (hiByte word) (loByte word) = word := by
  ext i hi
  by_cases h : i < 8
  · simp [joinBytes, hiByte, loByte, h, BitVec.getLsbD_eq_getElem hi]
  · simp [joinBytes, hiByte, loByte, h]
    rw [show 8 + (i - 8) = i by omega, BitVec.getLsbD_eq_getElem hi]
    simp
    omega

/-- The value of a joined Word. -/
theorem toNat_joinBytes (msb lsb : Byte) : (joinBytes msb lsb).toNat = msb.toNat * 256 + lsb.toNat := by
  have h1 := msb.isLt
  have h2 := lsb.isLt
  simp only [joinBytes, BitVec.toNat_or, BitVec.toNat_shiftLeft, BitVec.toNat_setWidth]
  rw [Nat.mod_eq_of_lt (by omega : msb.toNat < 2 ^ 16), Nat.mod_eq_of_lt (by omega : lsb.toNat < 2 ^ 16),
    Nat.shiftLeft_eq, Nat.mod_eq_of_lt (by omega), Nat.mul_comm, ← Nat.two_pow_add_eq_or_of_lt h2]

end Machine

end Sys2Proof
end

