-- ==== Sys2Proof/Laws/Builder.lean ====
section
/-!
SUPPORT. The Frame Builder: what its loop and its whole operation answer.
-/

namespace Sys2Proof.Machine

/-- R75, R96: when `OUT` holds the command and `idx` triplets, the loop stores one triplet per argument, in order, and
touches nothing but `OUT`, `idx` and the working register. -/
theorem emitArguments_eq (ws : List Word) (s : State) (h : s.out.length = 2 + 3 * s.idx) :
    ∃ crc, emitArguments ws s =
      .next { s with out := s.out ++ ws.flatMap triplet, idx := s.idx + ws.length, crc := crc } := by
  induction ws generalizing s with
  | nil => exact ⟨s.crc, by simp [emitArguments]⟩
  | cons a rest ih =>
    obtain ⟨crc, hc⟩ := ih (bumpIdx { runEngine a s with out := s.out ++ triplet a })
      (by simp [h, triplet, wireWord]; omega)
    refine ⟨crc, ?_⟩
    rw [emitArguments, writeOut_end _ (by simpa using h)]
    simp only [andThen]
    rw [show ({ runEngine a s with
        out := (runEngine a s).out ++ [hiByte a, loByte a, (runEngine a s).crc] } : State)
      = { runEngine a s with out := s.out ++ triplet a } by simp [triplet, wireWord], hc, runEngine_eq]
    simp [bumpIdx]
    omega

/-- R75, R78: once its operands are Words, a `BUILD` answers `OK` with the outbound frame, and does nothing else. -/
theorem emitFrame_eq (command : Word) (arguments : List Word) (s : State) :
    emitFrame command arguments s =
      .next (deliver { status := .ok, results := .build (outboundFrame command arguments) } s) := by
  rw [emitFrame, writeOut_end _ (by simp : (openOut s).out.length = 0)]
  simp only [andThen]
  obtain ⟨crc, hc⟩ := emitArguments_eq arguments
    { openOut s with out := (openOut s).out ++ [hiByte command, loByte command] } (by simp)
  rw [hc]
  simp only [outboundFrame, wireWord, openOut_out, List.nil_append]
  exact congrArg _ (deliver_congr _ rfl rfl rfl rfl)

/-- R75, R76, R80: everything `BUILD` can do. -/
theorem execBuild_cases (command : Int) (arguments : List Int) (s : State) :
    (∃ why, (Instr.build command arguments).inadmissible s.params = some why ∧
        execBuild command arguments s = .refused (.notAdmitted why)) ∨
      ((Instr.build command arguments).wf s.params = true ∧ (∃ v ∈ command :: arguments, ¬ (0 ≤ v ∧ v ≤ 65535)) ∧
        execBuild command arguments s = .next (raise .invalidArgument (.build []) s)) ∨
      ((Instr.build command arguments).wf s.params = true ∧ ∃ c ws, command = (c.toNat : Int) ∧
        arguments = ws.map (fun w => (w.toNat : Int)) ∧ execBuild command arguments s =
          .next (deliver { status := .ok, results := .build (outboundFrame c ws) } s)) := by
  unfold execBuild
  obtain ⟨hwf, h⟩ | ⟨why, hw, h⟩ := ifAdmitted_cases (.build command arguments) s (buildFrame command arguments)
  · right
    rw [h, buildFrame]
    cases hb : buildWords command arguments with
    | none => exact .inl ⟨hwf, (buildWords_eq_none_iff _ _).1 hb, rfl⟩
    | some p =>
      obtain ⟨hc, ha⟩ := (buildWords_eq_some_iff _ _ p.1 p.2).1 hb
      exact .inr ⟨hwf, p.1, p.2, hc, ha, emitFrame_eq _ _ _⟩
  · exact .inl ⟨why, hw, h⟩

end Sys2Proof.Machine
end

