-- ==== Sys2Proof/Laws/Decode.lean ====
section
/-!
SUPPORT. The fields of a request: what each field check answers on a value of its type, and what it says of the value
when it answers.
-/

namespace Sys2Proof

@[simp] theorem wordField_toNat (w : Word) : wordField (w.toNat : Int) = .ok w := by simp [wordField]

@[simp] theorem byteField_toNat (b : Byte) : byteField (b.toNat : Int) = .ok b := by simp [byteField]

@[simp] theorem bytesField_map_toNat (bs : List Byte) :
    bytesField (bs.map fun b => (b.toNat : Int)) = .ok bs := by
  simp [bytesField, (asBytes_eq_some_iff _ _).2 rfl]

@[simp] theorem countField_natCast (n : Nat) : countField (n : Int) = .ok n := by simp [countField, asCount]

/-- R59: a field outside the Word range is refused. -/
theorem wordField_outside {v : Int} (h : ¬ (0 ≤ v ∧ v ≤ 65535)) : wordField v = .error .wordOutOfRange := by
  simp [wordField, (asWord_eq_none_iff v).2 h]

/-- R67: a field outside the Byte range is refused. -/
theorem byteField_outside {v : Int} (h : ¬ (0 ≤ v ∧ v ≤ 255)) : byteField v = .error .byteOutOfRange := by
  simp [byteField, (asByte_eq_none_iff v).2 h]

/-- A Word field that answers held that Word's value. -/
theorem wordField_ok {v : Int} {w : Word} (h : wordField v = .ok w) : v = (w.toNat : Int) := by
  unfold wordField at h
  split at h
  case h_1 h' => cases h; exact (asWord_eq_some_iff _ _).1 h'
  case h_2 => cases h

/-- A Byte field that answers held that Byte's value. -/
theorem byteField_ok {v : Int} {b : Byte} (h : byteField v = .ok b) : v = (b.toNat : Int) := by
  unfold byteField at h
  split at h
  case h_1 h' => cases h; exact (asByte_eq_some_iff _ _).1 h'
  case h_2 => cases h

/-- A sequence field that answers held those Bytes' values. -/
theorem bytesField_ok {vs : List Int} {bs : List Byte} (h : bytesField vs = .ok bs) :
    vs = bs.map fun b => (b.toNat : Int) := by
  unfold bytesField at h
  split at h
  case h_1 h' => cases h; exact (asBytes_eq_some_iff _ _).1 h'
  case h_2 => cases h

/-- A count field that answers held that count. -/
theorem countField_ok {v : Int} {n : Nat} (h : countField v = .ok n) : v = (n : Int) := by
  unfold countField asCount at h
  by_cases hv : 0 ≤ v
  · simp only [hv, if_true] at h
    cases h
    omega
  · simp [hv] at h

/-- A sequence of checks answers only through an answer of its first. -/
theorem Except.bind_ok {α β : Type} {x : Except DecodeError α} {f : α → Except DecodeError β} {b : β}
    (h : (x >>= f) = .ok b) : ∃ a, x = .ok a ∧ f a = .ok b := by
  cases x with
  | error why => cases h
  | ok a => exact ⟨a, rfl, h⟩

/-- R36: the selector's number and its name determine each other. -/
theorem Op.code_ofCode (op : BitVec 3) : (Op.ofCode op).code = op := by
  revert op
  decide

end Sys2Proof
end

