-- ==== Sys2Proof/Laws/Parser.lean ====
section
/-!
SUPPORT. The Frame Parser: what its loop and its whole operation answer.
-/

namespace Sys2Proof.Machine

/-- A whole triplet is valid or bad, never both. -/
theorem tripletValid_or_bad {raw : List Byte} {i : Nat} (h : 3 * i + 3 ≤ raw.length) :
    TripletValid raw i ∨ TripletBad raw i := by
  obtain ⟨m, l, c, -, h0, h1, h2⟩ := memRead_three h
  by_cases hc : c = checksum (joinBytes m l)
  · exact .inl ⟨m, l, c, h0, h1, h2, hc⟩
  · exact .inr ⟨m, l, c, h0, h1, h2, hc⟩

/-- A bad triplet is not valid. -/
theorem TripletBad.not_valid {raw : List Byte} {i : Nat} (h : TripletBad raw i) : ¬ TripletValid raw i := by
  obtain ⟨m, l, c, h0, h1, h2, hc⟩ := h
  rintro ⟨m', l', c', h0', h1', h2', hc'⟩
  rw [h0] at h0'
  rw [h1] at h1'
  rw [h2] at h2'
  simp only [Option.some.injEq] at h0' h1' h2'
  subst h0' h1' h2'
  exact hc hc'

/-- R90: among whole triplets, either all are valid or there is a first bad one. -/
theorem all_valid_or_first_bad {raw : List Byte} {n : Nat} (h : 3 * n ≤ raw.length) :
    (∀ i < n, TripletValid raw i) ∨ ∃ i < n, TripletBad raw i ∧ ∀ j < i, TripletValid raw j := by
  induction n with
  | zero => exact .inl fun i hi => absurd hi (Nat.not_lt_zero i)
  | succ n ih =>
    obtain hv | ⟨i, hi, hb⟩ := ih (by omega)
    · obtain hn | hn := tripletValid_or_bad (raw := raw) (i := n) (by omega)
      · refine .inl fun i hi => ?_
        obtain hi | rfl := Nat.lt_succ_iff_lt_or_eq.1 hi
        · exact hv i hi
        · exact hn
      · exact .inr ⟨n, by omega, hn, hv⟩
    · exact .inr ⟨i, by omega, hb⟩

/-- R85: one turn of the loop on a whole triplet. -/
theorem parseTriplets_succ {flag : Bool} {n : Nat} {s : State} {m l c : Byte}
    (h0 : s.raw[3 * s.idx]? = some m) (h1 : s.raw[3 * s.idx + 1]? = some l) (h2 : s.raw[3 * s.idx + 2]? = some c) :
    parseTriplets flag (n + 1) s =
      if c = checksum (joinBytes m l) then
        parseTriplets flag n (bumpIdx (appendWord (joinBytes m l) (runEngine (joinBytes m l) s)))
      else .next (raise .checksumMismatch (.parse [] none (some s.idx)) s) := by
  have hlen : 3 * s.idx + 3 ≤ s.raw.length := by
    have := (List.getElem?_eq_some_iff.1 h2).1
    omega
  obtain ⟨m', l', c', hr, h0', h1', h2'⟩ := memRead_three hlen
  rw [h0] at h0'
  rw [h1] at h1'
  rw [h2] at h2'
  simp only [Option.some.injEq] at h0' h1' h2'
  subst h0' h1' h2'
  rw [parseTriplets, hr]
  by_cases hc : c = checksum (joinBytes m l)
  · rw [if_pos hc]
    exact if_pos (by simp [matchFlag, hc])
  · rw [if_neg hc]
    exact (if_neg (by simp [matchFlag, hc])).trans (congrArg _ (deliver_congr _ rfl rfl rfl rfl))

/-- R91: over valid triplets the loop delivers their Words, in order, and does nothing else. -/
theorem parseTriplets_valid {flag : Bool} {n : Nat} {s : State}
    (h : ∀ i < n, TripletValid s.raw (s.idx + i)) :
    ∃ ws : List Word, ws.length = n ∧
      (∀ i < n, ∃ m l, s.raw[3 * (s.idx + i)]? = some m ∧ s.raw[3 * (s.idx + i) + 1]? = some l ∧
        ws[i]? = some (joinBytes m l)) ∧
      parseTriplets flag n s =
        .next (deliver { status := .ok, results := .parse (s.words ++ ws) (some flag) none } s) := by
  induction n generalizing s with
  | zero => exact ⟨[], rfl, fun i hi => absurd hi (Nat.not_lt_zero i), by simp [parseTriplets]⟩
  | succ n ih =>
    obtain ⟨m, l, c, h0, h1, h2, hc⟩ := h 0 (Nat.succ_pos n)
    obtain ⟨ws, hlen, hws, heq⟩ := ih (s := bumpIdx (appendWord (joinBytes m l) (runEngine (joinBytes m l) s)))
      (fun i hi => by
        have := h (i + 1) (by omega)
        simpa [Nat.add_assoc, Nat.add_comm 1 i] using this)
    refine ⟨joinBytes m l :: ws, by simp [hlen], ?_, ?_⟩
    · intro i hi
      cases i with
      | zero => exact ⟨m, l, h0, h1, rfl⟩
      | succ i =>
        obtain ⟨m', l', a, b, d⟩ := hws i (by omega)
        refine ⟨m', l', ?_, ?_, by simpa using d⟩
        · simpa [Nat.add_assoc, Nat.add_comm 1 i] using a
        · simpa [Nat.add_assoc, Nat.add_comm 1 i] using b
    · rw [parseTriplets_succ h0 h1 h2, if_pos hc, heq]
      simp only [bumpIdx_words, appendWord_words, runEngine_words, List.append_assoc, List.singleton_append]
      exact congrArg _ (deliver_congr _ (by simp) (by simp) (by simp) (by simp))

/-- R90: at the first bad triplet the loop ends with its index, and nothing of the triplets before it is delivered. -/
theorem parseTriplets_bad {flag : Bool} {n k : Nat} {s : State} (hk : k < n)
    (hv : ∀ i < k, TripletValid s.raw (s.idx + i)) (hb : TripletBad s.raw (s.idx + k)) :
    parseTriplets flag n s = .next (raise .checksumMismatch (.parse [] none (some (s.idx + k))) s) := by
  induction k generalizing n s with
  | zero =>
    obtain ⟨m, l, c, h0, h1, h2, hc⟩ := hb
    obtain ⟨n, rfl⟩ : ∃ n', n = n' + 1 := ⟨n - 1, by omega⟩
    rw [parseTriplets_succ h0 h1 h2, if_neg hc]
    rfl
  | succ k ih =>
    obtain ⟨m, l, c, h0, h1, h2, hc⟩ := hv 0 (Nat.succ_pos k)
    obtain ⟨n, rfl⟩ : ∃ n', n = n' + 1 := ⟨n - 1, by omega⟩
    rw [parseTriplets_succ h0 h1 h2, if_pos hc, ih (by omega)]
    · simp only [bumpIdx_idx, appendWord_idx, runEngine_idx, show s.idx + 1 + k = s.idx + (k + 1) by omega]
      exact congrArg _ (deliver_congr _ (by simp) (by simp) (by simp) (by simp))
    · intro i hi
      have := hv (i + 1) (by omega)
      simpa [Nat.add_assoc, Nat.add_comm 1 i] using this
    · simpa [Nat.add_assoc, Nat.add_comm 1 k] using hb

/-- R89: the triplets decoded all lie inside `RAW` (R25). -/
theorem tripletCount_le (len count : Nat) : 3 * tripletCount len count ≤ len := by
  unfold tripletCount lengthMismatch
  split <;> simp_all
  omega

/-- R88: when a length ends the operation, and when it does not. -/
theorem rejectsLength_cases (policy : LenPolicy) (len count : Nat) :
    (rejectsLength policy len count = true → policy = .strict ∧ len ≠ 3 * count) ∧
      (¬ rejectsLength policy len count = true → len = 3 * count ∨ policy = .lenient) := by
  cases policy <;> simp [rejectsLength, lengthMismatch]

/-- R85 to R91, R94: everything `PARSE` can do. -/
theorem execParse_cases (raw : List Byte) (count : Nat) (s : State) :
    (∃ why, (Instr.parse raw count).inadmissible s.params = some why ∧
        execParse raw count s = .refused (.notAdmitted why)) ∨
      ((Instr.parse raw count).wf s.params = true ∧
        ((count = 0 ∧
            execParse raw count s = .next (deliver { status := .ok, results := .parse [] (some false) none } s)) ∨
          (count ≠ 0 ∧ raw.length ≠ 3 * count ∧ s.params.lenPolicy = .strict ∧
            execParse raw count s = .next (raise .lengthMismatch (.parse [] none none) s)) ∨
          (count ≠ 0 ∧ (raw.length = 3 * count ∨ s.params.lenPolicy = .lenient) ∧
            ∃ k < tripletCount raw.length count, TripletBad raw k ∧ (∀ j < k, TripletValid raw j) ∧
              execParse raw count s = .next (raise .checksumMismatch (.parse [] none (some k)) s)) ∨
          (count ≠ 0 ∧ (raw.length = 3 * count ∨ s.params.lenPolicy = .lenient) ∧
            (∀ j < tripletCount raw.length count, TripletValid raw j) ∧
            ∃ ws : List Word, ws.length = tripletCount raw.length count ∧ WordsOf raw ws ∧
              execParse raw count s = .next
                (deliver ⟨.ok, .parse ws (some (lengthMismatch raw.length count)) none⟩ s)))) := by
  unfold execParse
  obtain ⟨hwf, h⟩ | ⟨why, hw, h⟩ := ifAdmitted_cases (.parse raw count) s (parseFrame raw count)
  · refine .inr ⟨hwf, ?_⟩
    rw [h, parseFrame]
    by_cases h0 : count = 0
    · exact .inl ⟨h0, by rw [if_pos h0]; rfl⟩
    · right
      rw [if_neg h0]
      simp only [openRaw_raw, openRaw_params]
      have hpol := rejectsLength_cases s.params.lenPolicy raw.length count
      cases hs : rejectsLength s.params.lenPolicy raw.length count with
      | true => exact .inl ⟨h0, (hpol.1 hs).2, (hpol.1 hs).1, rfl⟩
      | false =>
        right
        replace hpol := hpol.2 (by simp [hs])
        obtain hv | ⟨k, hk, hb, hv⟩ := all_valid_or_first_bad (tripletCount_le raw.length count)
        · obtain ⟨ws, hlen, hws, heq⟩ := parseTriplets_valid (flag := lengthMismatch raw.length count)
            (n := tripletCount raw.length count) (s := openRaw raw s) (by simpa using hv)
          refine .inr ⟨h0, hpol, hv, ws, hlen, ?_, heq⟩
          intro i hi
          simpa using hws i (by omega)
        · refine .inl ⟨h0, hpol, k, hk, hb, hv, ?_⟩
          rw [parseTriplets_bad hk (by simpa using hv) (by simpa using hb)]
          simp only [openRaw_idx, Nat.zero_add]
          rfl
  · exact .inl ⟨why, hw, h⟩

end Sys2Proof.Machine
end

