-- ==== Sys2Proof/Laws/PerInstr.lean ====
section
/-!
SUPPORT. Statements about every operation as syntax, one lemma per constructor. Family `Selector`: the request the encoder
writes has the operation's own selector, and that selector is the one spec/opcode_table.json's bits stand for
(spec/30_encoding.md rule R36).
-/

namespace Sys2Proof.Laws.Selector

/-- The selector of the operation's request names the operation, and the table's row of that number is the operation's. -/
def Statement (i : Instr) : Prop :=
  Op.ofCode (encode i).op = i.op ∧ (tableRequest 8 i.op.code.toNat).op = (encode i).op

theorem crc8 (word : Word) : Statement (.crc8 word) := ⟨rfl, rfl⟩

theorem crcchk (word : Word) (crcIn : Byte) : Statement (.crcchk word crcIn) := ⟨rfl, rfl⟩

theorem tobytes (word : Word) : Statement (.tobytes word) := ⟨rfl, rfl⟩

theorem frombytes (hi lo : Byte) : Statement (.frombytes hi lo) := ⟨rfl, rfl⟩

theorem w2f (high low : Word) : Statement (.w2f high low) := ⟨rfl, rfl⟩

theorem build (command : Int) (arguments : List Int) : Statement (.build command arguments) := ⟨rfl, rfl⟩

theorem parse (raw : List Byte) (expectedWordCount : Nat) : Statement (.parse raw expectedWordCount) := ⟨rfl, rfl⟩

theorem reserved7 : Statement .reserved7 := ⟨rfl, rfl⟩

end Sys2Proof.Laws.Selector
end

