-- ==== Sys2Proof/Laws/Step.lean ====
section
/-!
SUPPORT. The step and the dispatch: everything they can answer, said once.
-/

namespace Sys2Proof.Machine

@[simp] theorem takeRequest_nil {s : State} (h : s.requests = []) : takeRequest s = none := by
  simp [takeRequest, h]

@[simp] theorem takeRequest_cons {s : State} {r : Request} {rest : List Request} (h : s.requests = r :: rest) :
    takeRequest s = some (r, { s with requests := rest }) := by
  simp [takeRequest, h]

/-- An operation that answers a next state delivered one response, with or without a hand-over of buffers. -/
theorem exec_next {i : Instr} {s t : State} (h : exec i s = .next t) :
    ∃ r, t = respond r s ∨ t = deliver r s := by
  cases i with
  | crc8 w => cases h; exact ⟨_, .inl rfl⟩
  | crcchk w c => cases h; exact ⟨_, .inl rfl⟩
  | tobytes w => cases h; exact ⟨_, .inl rfl⟩
  | frombytes hi lo => cases h; exact ⟨_, .inl rfl⟩
  | w2f hi lo => cases h; exact ⟨_, .inl rfl⟩
  | build c as =>
    obtain ⟨_, -, h'⟩ | ⟨-, -, h'⟩ | ⟨-, _, _, -, -, h'⟩ := execBuild_cases c as s <;>
      (rw [show exec (.build c as) s = execBuild c as s from rfl, h'] at h; cases h <;> exact ⟨_, .inr rfl⟩)
  | parse raw n =>
    obtain ⟨_, -, h'⟩ | ⟨-, ⟨-, h'⟩ | ⟨-, -, -, h'⟩ | ⟨-, -, _, -, -, -, h'⟩ | ⟨-, -, -, _, -, -, h'⟩⟩ :=
      execParse_cases raw n s <;>
      (rw [show exec (.parse raw n) s = execParse raw n s from rfl, h'] at h; cases h <;> exact ⟨_, .inr rfl⟩)
  | reserved7 => cases h

/-- A step that answers a next state was idle, or performed the host's next request. -/
theorem step_next {s t : State} (h : step s = .next t) :
    (s.requests = [] ∧ t = s) ∨
      ∃ r rest i, s.requests = r :: rest ∧ decode r = .ok i ∧ exec i { s with requests := rest } = .next t := by
  cases hq : s.requests with
  | nil =>
    rw [step, takeRequest_nil hq] at h
    cases h
    exact .inl ⟨rfl, rfl⟩
  | cons r rest =>
    rw [step, takeRequest_cons hq] at h
    cases hd : decode r with
    | error why => simp [hd] at h
    | ok i =>
      simp only [hd] at h
      exact .inr ⟨r, rest, i, rfl, hd, h⟩

end Sys2Proof.Machine
end

