-- ==== Sys2Proof/Laws/Wire.lean ====
section
/-!
SUPPORT. The wire formats: lengths of frames and what stands at each offset, and the values of the parts of a Word.
-/

namespace Sys2Proof.Machine

/-- R45: the value of the more significant byte. -/
theorem toNat_hiByte (w : Word) : (hiByte w).toNat = w.toNat / 256 := by
  have h := toNat_joinBytes (hiByte w) (loByte w)
  rw [joinBytes_hiByte_loByte] at h
  have := (loByte w).isLt
  omega

/-- R45: the value of the less significant byte. -/
theorem toNat_loByte (w : Word) : (loByte w).toNat = w.toNat % 256 := by
  have h := toNat_joinBytes (hiByte w) (loByte w)
  rw [joinBytes_hiByte_loByte] at h
  have := (loByte w).isLt
  omega

/-- R45: the value of a pattern. -/
theorem toNat_joinWords (high low : Word) : (joinWords high low).toNat = high.toNat * 65536 + low.toNat := by
  have h1 := high.isLt
  have h2 := low.isLt
  simp only [joinWords, BitVec.toNat_or, BitVec.toNat_shiftLeft, BitVec.toNat_setWidth]
  rw [Nat.mod_eq_of_lt (by omega : high.toNat < 2 ^ 32), Nat.mod_eq_of_lt (by omega : low.toNat < 2 ^ 32),
    Nat.shiftLeft_eq, Nat.mod_eq_of_lt (by omega), Nat.mul_comm, ← Nat.two_pow_add_eq_or_of_lt h2]

/-- Taking the more significant byte distributes over XOR. -/
theorem hiByte_xor (a b : Word) : hiByte (a ^^^ b) = hiByte a ^^^ hiByte b := by
  ext i hi
  simp [hiByte, BitVec.getElem_extractLsb']

/-- Taking the less significant byte distributes over XOR. -/
theorem loByte_xor (a b : Word) : loByte (a ^^^ b) = loByte a ^^^ loByte b := by
  ext i hi
  simp [loByte, BitVec.getElem_extractLsb']

/-- R43: an inbound frame has three bytes per Word. -/
theorem inboundFrame_length (ws : List Word) : (inboundFrame ws).length = 3 * ws.length := by
  induction ws with
  | nil => rfl
  | cons w ws ih =>
    rw [inboundFrame, List.flatMap_cons, List.length_append, ← inboundFrame, ih]
    simp [triplet, wireWord]
    omega

/-- R42: an outbound frame has two bytes and three per argument. -/
theorem outboundFrame_length (c : Word) (ws : List Word) : (outboundFrame c ws).length = 2 + 3 * ws.length := by
  rw [outboundFrame, List.length_append, ← inboundFrame, inboundFrame_length]
  rfl

/-- R24, R43: triplet `k` of an inbound frame stands at offsets `3k`, `3k+1` and `3k+2`. -/
theorem inboundFrame_get {ws : List Word} {k : Nat} {w : Word} (h : ws[k]? = some w) :
    (inboundFrame ws)[3 * k]? = some (hiByte w) ∧ (inboundFrame ws)[3 * k + 1]? = some (loByte w) ∧
      (inboundFrame ws)[3 * k + 2]? = some (checksum w) := by
  induction ws generalizing k with
  | nil => simp at h
  | cons a ws ih =>
    rw [show inboundFrame (a :: ws) = hiByte a :: loByte a :: checksum a :: inboundFrame ws from rfl]
    cases k with
    | zero =>
      simp at h
      subst h
      simp
    | succ k =>
      have := ih (k := k) (by simpa using h)
      simpa [Nat.mul_add, Nat.mul_succ] using this

end Sys2Proof.Machine
end

