-- ==== Sys2Proof/Tests/Slice0.lean ====
section
/-!
SUPPORT. Tests and witnesses. Expected values are those of spec/95_test_vectors.md (its section is named at each test);
the witnesses show that the hypotheses of each statement in Certificates/Slice0/Obligations.lean can be met together.
-/

namespace Sys2Proof.Tests

open Sys2Proof.Machine

/-- The response an operation in the reset state was answered with. -/
def answer (r : Host.Outcome State Fault Refusal) : Option Response :=
  match r with
  | .next s => s.responses.getLast?
  | _ => none

/-- The reset state of an implementation whose parameters are these. -/
def booted (p : Params) : State :=
  { State.reset with params := p }

/-- The default parameters with `LENIENT`. -/
def lenient : Params :=
  { Params.default with lenPolicy := .lenient }

/-- The least finite parameters a realisation may have (R6). -/
def least : Params :=
  { opw := some 17, maxArgs := some 1, maxWords := some 6, maxRaw := some 18, lenPolicy := .strict }

/-- A state no run reaches: leftovers in every register and buffer. -/
def cluttered (p : Params) : State :=
  { params := p, requests := [], responses := [⟨.ok, .crc8 0x81⟩], crc := 0x55, idx := 7, raw := [1, 2], out := [3],
    words := [4], fresh := 9 }

/-- The state in which the host issues one request next. -/
def asked (r : Request) : State :=
  { State.reset with requests := [r] }

/-- The 18-byte frame `G` of spec/95_test_vectors.md section 8. -/
def frameG : List Byte :=
  [0x43, 0xDB, 0xCB, 0x8C, 0x2E, 0x8F, 0x41, 0xD9, 0x70, 0xE7, 0xFF, 0xF5, 0x42, 0x43, 0xBF, 0x9A, 0x6B, 0x73]

/-! Decoding: a request written out from R36 and R37 for each operation, with operands of 95 section 9. -/

theorem test_decode_crc8 : decode ⟨0b000#3, .w 0xBEEF⟩ = .ok (.crc8 0xBEEF) := by decide

theorem test_decode_crcchk : decode ⟨0b001#3, .wc 0xBEEF 0x92⟩ = .ok (.crcchk 0xBEEF 0x92) := by decide

theorem test_decode_tobytes : decode ⟨0b010#3, .w 0xBEEF⟩ = .ok (.tobytes 0xBEEF) := by decide

theorem test_decode_frombytes : decode ⟨0b011#3, .bb 0xBE 0xEF⟩ = .ok (.frombytes 0xBE 0xEF) := by decide

theorem test_decode_w2f : decode ⟨0b100#3, .ww 0x4049 0x0FDB⟩ = .ok (.w2f 0x4049 0x0FDB) := by decide

theorem test_decode_build : decode ⟨0b101#3, .ca 16 [70000]⟩ = .ok (.build 16 [70000]) := by decide

theorem test_decode_parse : decode ⟨0b110#3, .rn [0x00, 0x02, 0xE3] 1⟩ = .ok (.parse [0x00, 0x02, 0xE3] 1) := by decide

theorem test_decode_reserved : decode ⟨0b111#3, .none⟩ = .ok .reserved7 ∧ decode ⟨0b111#3, .w 5⟩ = .ok .reserved7 := by
  decide

/-- R37: the fields of another format, a negative count and a byte above 255 are refused by name. -/
theorem test_decode_refuses : decode ⟨0b000#3, .bb 1 2⟩ = .error .wrongFormat ∧
    decode ⟨0b110#3, .rn [] (-1)⟩ = .error .negativeCount ∧ decode ⟨0b110#3, .rn [0, 256] 1⟩ = .error .byteOutOfRange ∧
    decode ⟨0b010#3, .w 65536⟩ = .error .wordOutOfRange := by decide

/-- The opcode table's rows, in the table's order. -/
theorem test_table_words : (List.range 8).map (decodeTableWord 8) =
    [some (.crc8 0), some (.crcchk 0 0), some (.tobytes 0), some (.frombytes 0 0), some (.w2f 0 0), some (.build 0 []),
      some (.parse [] 0), some .reserved7] := by decide

/-- Each row of the table runs as the first operation after reset; the reserved one is refused (R39). -/
theorem test_table_words_run : (List.range 8).map (fun w => answer (step (State.reset.withFetchWord 8 w))) =
    [some ⟨.ok, .crc8 0x81⟩, some ⟨.ok, .crcchk false 0x81⟩, some ⟨.ok, .tobytes 0 0⟩, some ⟨.ok, .frombytes 0⟩,
      some ⟨.ok, .w2f 0⟩, some ⟨.ok, .build [0, 0]⟩, some ⟨.ok, .parse [] (some false) none⟩, none] := by
  decide +kernel

/-! Well-formedness: an ill-formed term for each check. -/

theorem test_wf_operand_too_wide : (Instr.build 65536 []).inadmissible least = some .operandTooWide := by decide

theorem test_wf_too_many_arguments : (Instr.build 0 [1, 2]).inadmissible least = some .tooManyArguments := by decide

theorem test_wf_too_many_bytes :
    (Instr.parse (List.replicate 19 0) 6).inadmissible least = some .tooManyBytes := by decide

theorem test_wf_too_many_words : (Instr.parse [] 7).inadmissible least = some .tooManyWords := by decide

theorem test_wf_admits : (Instr.build 65535 [-65536]).wf least = true ∧ (Instr.parse frameG 6).wf least = true := by
  decide

/-- R6: a request beyond a finite bound has no response. -/
theorem test_not_admitted : exec (.parse [] 7) (booted least) = .refused (.notAdmitted .tooManyWords) := by rfl

/-! The operations, on values of 95 sections 1 to 8. -/

/-- 95 section 2. -/
theorem test_crc8 : answer (exec (.crc8 0xBEEF) State.reset) = some ⟨.ok, .crc8 0x92⟩ := by decide +kernel

/-- 95 section 2: a checksum of zero, and a register left over from before makes no difference (R15). -/
theorem test_crc8_fresh_register : answer (exec (.crc8 0x00AC) (cluttered lenient)) = some ⟨.ok, .crc8 0x00⟩ := by
  decide +kernel

/-- 95 section 5. -/
theorem test_crcchk_match : answer (exec (.crcchk 0xFF00 0x00) State.reset) = some ⟨.ok, .crcchk true 0x00⟩ := by
  decide +kernel

/-- 95 section 5. -/
theorem test_crcchk_mismatch : answer (exec (.crcchk 0xFFFF 0xFF) State.reset) = some ⟨.ok, .crcchk false 0xAC⟩ := by
  decide +kernel

/-- 95 section 6. -/
theorem test_tobytes : answer (exec (.tobytes 0xFF00) State.reset) = some ⟨.ok, .tobytes 0xFF 0x00⟩ := by decide +kernel

/-- 95 section 6. -/
theorem test_frombytes : answer (exec (.frombytes 0x03 0x42) State.reset) = some ⟨.ok, .frombytes 0x0342⟩ := by
  decide +kernel

/-- 95 section 6: the operand order matters. -/
theorem test_w2f_order : answer (exec (.w2f 0x0FDB 0x4049) State.reset) = some ⟨.ok, .w2f 0x0FDB4049⟩ := by
  decide +kernel

/-- 95 section 6: a signalling NaN is not quieted. -/
theorem test_w2f_nan : answer (exec (.w2f 0x7F80 0x0001) State.reset) = some ⟨.ok, .w2f 0x7F800001⟩ := by
  decide +kernel

/-- 95 section 7. -/
theorem test_build : answer (exec (.build 0x1234 [0xBEEF, 0x0000, 0xFFFF]) (cluttered lenient)) =
    some ⟨.ok, .build [0x12, 0x34, 0xBE, 0xEF, 0x92, 0x00, 0x00, 0x81, 0xFF, 0xFF, 0xAC]⟩ := by decide +kernel

/-- 95 section 7: one bad argument among good ones, the first value above the range, and a negative command. -/
theorem test_build_invalid : [exec (.build 0x0010 [0, 70000, 5]) State.reset, exec (.build 0x0010 [65536]) State.reset,
    exec (.build (-1) []) State.reset].map answer = List.replicate 3 (some ⟨.invalidArgument, .build []⟩) := by
  decide +kernel

/-- 95 section 8 and program P6: one frame under `STRICT` and under `LENIENT`, and with no Word expected. -/
theorem test_parse_length : [exec (.parse (frameG.take 17) 6) State.reset,
    exec (.parse (frameG.take 17) 6) (booted lenient), exec (.parse (frameG.take 17) 0) State.reset].map answer =
    [some ⟨.lengthMismatch, .parse [] none none⟩,
      some ⟨.ok, .parse [0x43DB, 0x8C2E, 0x41D9, 0xE7FF, 0x4243] (some true) none⟩,
      some ⟨.ok, .parse [] (some false) none⟩] := by decide +kernel

/-- 95 section 8: the whole frame, byte 10 and byte 17 with one bit flipped, and two bad triplets. -/
theorem test_parse_checksums : [exec (.parse frameG 6) (cluttered lenient), exec (.parse (flipBit frameG 10 0) 6) State.reset,
    exec (.parse (flipBit frameG 17 7) 6) State.reset,
    exec (.parse [0x00, 0x01, 0xB1, 0x00, 0x02, 0xE4] 2) State.reset].map answer =
    [some ⟨.ok, .parse [0x43DB, 0x8C2E, 0x41D9, 0xE7FF, 0x4243, 0x9A6B] (some false) none⟩,
      some ⟨.checksumMismatch, .parse [] none (some 3)⟩, some ⟨.checksumMismatch, .parse [] none (some 5)⟩,
      some ⟨.checksumMismatch, .parse [] none (some 0)⟩] := by decide +kernel

/-- R39. -/
theorem test_reserved : step (asked ⟨0b111#3, .ca 1 [2]⟩) = .refused .reservedSelector := by rfl

/-- 95 section 6, with the reading of R70: 25.0 is 25 × 2^19 × 2^(-19), and -0 keeps its sign. -/
theorem test_reading : readBinary32 0x41C80000 = .finite false (25 * 2 ^ 19) (-19) ∧
    readBinary32 0x80000000 = .finite true 0 (-149) ∧ readBinary32 0x7FC00000 = .nan true ∧
    readBinary32 0x7F800001 = .nan false ∧ readBinary32 0xFF800000 = .infinite true := by decide +kernel

/-- 95 section 3: the check with the table. -/
theorem test_table_form : tableChecksum 0x0000 = 0x81 ∧ tableChecksum 0xBEEF = 0x92 := by decide +kernel

/-- R49: the exchange of program P2, less the Transport's part. -/
theorem test_xfer : xfer 0x4600 [2] [0x00, 0x02, 0xE3] 1 =
    [⟨0b101#3, .ca 0x4600 [2]⟩, ⟨0b110#3, .rn [0x00, 0x02, 0xE3] 1⟩] := by decide

/-! Witnesses: concrete states and operands that meet the hypotheses of each statement. -/

theorem valid_first_triplet : TripletValid [0x00, 0x01, 0xB0, 0x00, 0x02, 0xE4] 0 :=
  ⟨0x00, 0x01, 0xB0, rfl, rfl, rfl, by decide +kernel⟩

theorem bad_second_triplet : TripletBad [0x00, 0x01, 0xB0, 0x00, 0x02, 0xE4] 1 :=
  ⟨0x00, 0x02, 0xE4, rfl, rfl, rfl, by decide +kernel⟩

theorem valid_before_second : ∀ j < 1, TripletValid [0x00, 0x01, 0xB0, 0x00, 0x02, 0xE4] j := by
  intro j hj
  obtain rfl : j = 0 := by omega
  exact valid_first_triplet

theorem valid_pair : ∀ j < 2, TripletValid [0x00, 0x01, 0xB0, 0x00, 0x02, 0xE3] j := by
  intro j hj
  obtain rfl | rfl : j = 0 ∨ j = 1 := by omega
  · exact ⟨0x00, 0x01, 0xB0, rfl, rfl, rfl, by decide +kernel⟩
  · exact ⟨0x00, 0x02, 0xE3, rfl, rfl, rfl, by decide +kernel⟩

theorem witness_ResetLeavesTheBlockIdle : (cluttered Params.default).params = State.reset.params ∧
    cluttered Params.default ≠ State.reset := by decide

theorem inv_asked : Inv (asked ⟨0b000#3, .w 0⟩) :=
  ⟨⟨rfl, rfl, rfl⟩, rfl, by simp [asked, State.reset]⟩

theorem witness_StepKeepsTheInvariant : ∃ s t, Inv s ∧ s.requests ≠ [] ∧ step s = .next t :=
  ⟨asked ⟨0b000#3, .w 0⟩, _, inv_asked, by simp [asked], rfl⟩

theorem witness_StepRunsTheDecodedRequest :
    (asked ⟨0b000#3, .w 65535⟩).requests = [⟨0b000#3, .w 65535⟩] ∧
      decode ⟨0b000#3, .w 65535⟩ = .ok (.crc8 0xFFFF) ∧ decode ⟨0b000#3, .w 65536⟩ = .error .wordOutOfRange ∧
      State.reset.requests = [] := by decide

theorem witness_StepKeepsTheParameters : ∃ s t, s.requests ≠ [] ∧ step s = .next t :=
  ⟨asked ⟨0b010#3, .w 7⟩, _, by simp [asked], rfl⟩

theorem witness_EveryDecodedRequestIsItsEncoding : decode ⟨0b011#3, .bb 255 0⟩ = .ok (.frombytes 0xFF 0x00) ∧
    (0b011#3 : BitVec 3) ≠ 0b111#3 := by decide

theorem witness_ReservedSelectorIsRefused : (asked ⟨0b111#3, .none⟩).requests = [⟨0b111#3, .none⟩] := by decide

theorem witness_OperandOutsideTheWordRangeIsRefused : ¬ ((0 : Int) ≤ 65536 ∧ (65536 : Int) ≤ 65535) ∧
    ¬ ((0 : Int) ≤ -1 ∧ (-1 : Int) ≤ 65535) ∧
    [asked ⟨0b000#3, .w 65536⟩, asked ⟨0b001#3, .wc (-1) 0⟩, asked ⟨0b010#3, .w 65536⟩, asked ⟨0b100#3, .ww (-1) 0⟩,
      asked ⟨0b100#3, .ww 0 65536⟩].map State.requests =
      [[⟨0b000#3, .w 65536⟩], [⟨0b001#3, .wc (-1) 0⟩], [⟨0b010#3, .w 65536⟩], [⟨0b100#3, .ww (-1) 0⟩],
        [⟨0b100#3, .ww 0 65536⟩]] := by decide

theorem witness_OperandOutsideTheByteRangeIsRefused : ¬ ((0 : Int) ≤ 256 ∧ (256 : Int) ≤ 255) ∧
    ¬ ((0 : Int) ≤ -1 ∧ (-1 : Int) ≤ 255) ∧
    [asked ⟨0b001#3, .wc (0x1234#16).toNat 256⟩, asked ⟨0b011#3, .bb (-1) (0xFF#8).toNat⟩,
      asked ⟨0b011#3, .bb (0xFF#8).toNat 256⟩, asked ⟨0b110#3, .rn [1, 256, 2] 1⟩,
      asked ⟨0b110#3, .rn [1] (-1)⟩].map State.requests =
      [[⟨0b001#3, .wc 0x1234 256⟩], [⟨0b011#3, .bb (-1) 255⟩], [⟨0b011#3, .bb 255 256⟩],
        [⟨0b110#3, .rn [1, 256, 2] 1⟩], [⟨0b110#3, .rn [1] (-1)⟩]] := by decide

theorem witness_RequestBeyondAParameterIsRefused : (booted least).params.maxArgs = some 1 ∧ 1 < [(0 : Int), 0].length ∧
    (booted least).params.maxRaw = some 18 ∧ 18 < (0 :: frameG).length ∧ (booted least).params.maxWords = some 6 ∧
    6 < 7 := by decide

theorem witness_OneAndTwoBitFlipsInvalidateATriplet : (∃ i < 24, (0x800000#24) = BitVec.twoPow 24 i) ∧
    ∃ i < 24, ∃ j < 24, i ≠ j ∧ (0x800001#24) = BitVec.twoPow 24 i ^^^ BitVec.twoPow 24 j :=
  ⟨⟨23, by decide, by decide⟩, 23, by decide, 0, by decide, by decide, by decide⟩

theorem witness_FrombytesRefusal : ¬ (((0 : Int) ≤ 256 ∧ (256 : Int) ≤ 255) ∧ (0 : Int) ≤ 0 ∧ (0 : Int) ≤ 255) ∧
    (asked ⟨0b011#3, .bb 256 0⟩).requests = [⟨0b011#3, .bb 256 0⟩] := by decide

theorem witness_W2fFormsThePattern : ∃ t f, exec (.w2f 0x4049 0x0FDB) State.reset = .next t ∧
    Answers State.reset t ⟨.ok, .w2f f⟩ :=
  ⟨_, _, rfl, rfl, rfl, rfl⟩

theorem witness_PatternReadsAsBinary32 :
    (∃ e, e = (0x3F800000#32).toNat / 2 ^ 23 % 256 ∧ 1 ≤ e ∧ e ≤ 254) ∧
    (0x00000001#32).toNat / 2 ^ 23 % 256 = 0 ∧ (0x7F800000#32).toNat / 2 ^ 23 % 256 = 255 ∧
    (0x7F800000#32).toNat % 2 ^ 23 = 0 ∧ (0xFFFFFFFF#32).toNat / 2 ^ 23 % 256 = 255 ∧
    (0xFFFFFFFF#32).toNat % 2 ^ 23 ≠ 0 :=
  ⟨⟨127, by decide, by decide, by decide⟩, by decide, by decide, by decide, by decide, by decide⟩

theorem witness_BuildEmitsTheFrame : (Instr.build 65535 [65535]).wf (booted least).params = true ∧
    ((0 : Int) ≤ 65535 ∧ (65535 : Int) ≤ 65535) ∧ (∀ a ∈ [(65535 : Int)], 0 ≤ a ∧ a ≤ 65535) ∧
    [(65535 : Int)][0]? = some 65535 := by decide

theorem witness_BuildRejectsAnOperandOutOfRange : (Instr.build 0 [65536, -1]).wf State.reset.params = true ∧
    ∃ v ∈ [(0 : Int), 65536, -1], v < 0 ∨ 65536 ≤ v := by decide

theorem witness_BuildInheritsNoArguments : (∃ t, exec (.build 16 [0]) State.reset = .next t) ∧
    (Instr.build (0x0104#16).toNat []).wf State.reset.params = true :=
  ⟨⟨_, rfl⟩, by decide⟩

theorem witness_ParseReadsBackWhatBuildMade :
    (Instr.build (0x4600#16).toNat ([0xFFFF#16].map fun w => (w.toNat : Int))).wf (booted least).params = true ∧
    within (booted least).params.maxRaw (3 * [0xFFFF#16].length) = true ∧
    within (booted least).params.maxWords [0xFFFF#16].length = true := by decide

theorem witness_ParseOfNoWordsInspectsNothing : (Instr.parse [0xDE, 0xAD] 0).wf State.reset.params = true ∧
    (Instr.parse [0xDE, 0xAD] 0).wf (booted lenient).params = true := by decide

theorem witness_LengthMismatchFollowsThePolicy : (Instr.parse [0x00, 0x01, 0xB0, 0x00] 1).wf Params.default = true ∧
    [(0x00 : Byte), 0x01, 0xB0, 0x00].length ≠ 3 * 1 ∧ State.reset.params.lenPolicy = .strict ∧
    (Instr.parse [0x00, 0x01, 0xB0, 0x00] 1).wf lenient = true ∧ (booted lenient).params.lenPolicy = .lenient := by
  decide

/-- Both lengths of `FirstBadTripletEndsTheParse`: the right one, and under `LENIENT` one Word too many expected. -/
theorem witness_FirstBadTripletEndsTheParse :
    ((Instr.parse [0x00, 0x01, 0xB0, 0x00, 0x02, 0xE4] 2).wf State.reset.params = true ∧
      [(0x00 : Byte), 0x01, 0xB0, 0x00, 0x02, 0xE4].length = 3 * 2) ∧
    ((Instr.parse [0x00, 0x01, 0xB0, 0x00, 0x02, 0xE4] 3).wf (booted lenient).params = true ∧
      [(0x00 : Byte), 0x01, 0xB0, 0x00, 0x02, 0xE4].length ≠ 3 * 3 ∧ (booted lenient).params.lenPolicy = .lenient ∧
      2 = min 3 ([(0x00 : Byte), 0x01, 0xB0, 0x00, 0x02, 0xE4].length / 3)) ∧
    1 < 2 ∧ (∀ j < 1, TripletValid [0x00, 0x01, 0xB0, 0x00, 0x02, 0xE4] j) ∧
    TripletBad [0x00, 0x01, 0xB0, 0x00, 0x02, 0xE4] 1 :=
  ⟨by decide, by decide, by decide, valid_before_second, bad_second_triplet⟩

/-- Both lengths of `ParseDeliversTheTripletsPresent`, and its shortest frame. -/
theorem witness_ParseDeliversTheTripletsPresent :
    ((Instr.parse [0x00, 0x01, 0xB0, 0x00, 0x02, 0xE3] 2).wf State.reset.params = true ∧
      [(0x00 : Byte), 0x01, 0xB0, 0x00, 0x02, 0xE3].length = 3 * 2) ∧
    (∀ j < 2, TripletValid [0x00, 0x01, 0xB0, 0x00, 0x02, 0xE3] j) ∧
    ((Instr.parse [0x00, 0x01] 1).wf (booted lenient).params = true ∧ [(0x00 : Byte), 0x01].length ≠ 3 * 1 ∧
      (booted lenient).params.lenPolicy = .lenient ∧ 0 = min 1 ([(0x00 : Byte), 0x01].length / 3) ∧
      [(0x00 : Byte), 0x01].length < 3) :=
  ⟨by decide, valid_pair, by decide⟩

theorem witness_SuccessfulParseMeansVerifiedWords : ∃ t ws, exec (.parse [0x00, 0x01] 1) (booted lenient) = .next t ∧
    Answers (booted lenient) t ⟨.ok, .parse ws (some true) none⟩ :=
  ⟨_, [], rfl, rfl, rfl, rfl⟩

/-- The trailing bytes of `NoAccessOutsideABuffer`, none and two of them. -/
theorem witness_NoAccessOutsideABuffer : (booted lenient).params.lenPolicy = .lenient ∧
    [(0x00 : Byte), 0x01, 0xB0].length % 3 = 0 ∧ [(0x00 : Byte), 0x01, 0xB0].length < 3 * 2 ∧ ([] : List Byte).length < 3 ∧
    [(0x07 : Byte), 0x09].length < 3 ∧ (Instr.parse ([0x00, 0x01, 0xB0] ++ []) 2).wf (booted lenient).params = true ∧
    (Instr.parse ([0x00, 0x01, 0xB0] ++ [0x07, 0x09]) 2).wf (booted lenient).params = true := by decide

/-- Its last byte's top bit and its first byte's bottom bit. -/
theorem witness_SingleBitFlipOfAFrameIsDetected :
    (Instr.parse [0x00, 0x01, 0xB0, 0x00, 0x02, 0xE3] 2).wf State.reset.params = true ∧ 1 ≤ 2 ∧
    [(0x00 : Byte), 0x01, 0xB0, 0x00, 0x02, 0xE3].length = 3 * 2 ∧
    (∀ j < 2, TripletValid [0x00, 0x01, 0xB0, 0x00, 0x02, 0xE3] j) ∧
    5 < [(0x00 : Byte), 0x01, 0xB0, 0x00, 0x02, 0xE3].length ∧ 7 < 8 ∧ 0 < 8 :=
  ⟨by decide, by decide, by decide, valid_pair, by decide, by decide, by decide⟩

theorem answered_pair : ∃ t, exec (.parse [0x00, 0x01, 0xB0, 0x00, 0x02, 0xE3] 2) State.reset = .next t ∧
    Answers State.reset t ⟨.ok, .parse [0x0001, 0x0002] (some false) none⟩ := by
  have ha : answer (exec (.parse [0x00, 0x01, 0xB0, 0x00, 0x02, 0xE3] 2) State.reset) =
      some ⟨.ok, .parse [0x0001, 0x0002] (some false) none⟩ := by decide +kernel
  generalize hx : exec (.parse [0x00, 0x01, 0xB0, 0x00, 0x02, 0xE3] 2) State.reset = x at ha
  cases x with
  | next t =>
    obtain ⟨r, rfl | rfl⟩ := exec_next hx <;>
      (simp [answer] at ha; subst ha; exact ⟨_, rfl, rfl, rfl, rfl⟩)
  | fault why => simp [answer] at ha
  | refused why => simp [answer] at ha

theorem witness_FloatBytesStandAtTheirOffsets : (∃ t, exec (.parse [0x00, 0x01, 0xB0, 0x00, 0x02, 0xE3] 2) State.reset =
    .next t ∧ Answers State.reset t ⟨.ok, .parse [0x0001, 0x0002] (some false) none⟩) ∧
    [(0x0001 : Word), 0x0002][2 * 0]? = some 0x0001 ∧ [(0x0001 : Word), 0x0002][2 * 0 + 1]? = some 0x0002 :=
  ⟨answered_pair, by decide, by decide⟩

theorem witness_FaultTable : (∃ t, exec (.build (-1) []) State.reset = .next t) ∧
    (∃ t, exec (.parse [] 1) State.reset = .next t) ∧ ∃ t, exec (.w2f 0 0) State.reset = .next t :=
  ⟨⟨_, rfl⟩, ⟨_, rfl⟩, _, rfl⟩

theorem witness_OneOutcomeByPriority : (Instr.build 65536 [0]).wf State.reset.params = true ∧
    (Instr.parse [0x00, 0x01, 0xB1, 0x00, 0x02] 2).wf State.reset.params = true ∧
    1 = (if [(0x00 : Byte), 0x01, 0xB1, 0x00, 0x02].length = 3 * 2 then 2
      else min 2 ([(0x00 : Byte), 0x01, 0xB1, 0x00, 0x02].length / 3)) := by decide

theorem witness_ScalarOperationsLeaveEverythingElse : ∃ t, exec (.crcchk 0 0x81) (cluttered lenient) = .next t :=
  ⟨_, rfl⟩

theorem witness_FrameOperationsKeepNoCopy : (∃ t, exec (.build 1 []) (cluttered lenient) = .next t) ∧
    ∃ t, exec (.parse [] 0) (cluttered lenient) = .next t :=
  ⟨⟨_, rfl⟩, _, rfl⟩

theorem witness_ResponseDependsOnTheRequestAlone : (cluttered lenient).params = (booted lenient).params ∧
    cluttered lenient ≠ booted lenient := by decide

theorem witness_NothingIsSticky : ∃ t, exec (.build 16 [70000]) State.reset = .next t ∧
    Answers State.reset t ⟨.invalidArgument, .build []⟩ :=
  ⟨_, rfl, rfl, rfl, rfl⟩

theorem witness_EveryAdmittedOperationAnswers : Instr.parse frameG 6 ≠ .reserved7 ∧
    (Instr.parse frameG 6).wf (booted least).params = true := by decide

theorem witness_QueuedRequestsAreAnsweredInOrder :
    (∀ i ∈ [Instr.crc8 0xBEEF, .build 16 [70000]], i ≠ .reserved7 ∧ i.wf State.reset.params = true) ∧
    ({ State.reset with requests := [⟨0b000#3, .w 0xBEEF⟩, ⟨0b101#3, .ca 16 [70000]⟩] } : State).requests =
      [Instr.crc8 0xBEEF, .build 16 [70000]].map encode := by decide

theorem witness_ListedCommandsAreServed : (booted least).params.legal = true ∧
    ⟨"read_measurement", 0x0300, 0, 6⟩ ∈ commandDescriptors ∧ ([] : List Word).length = 0 ∧
    frameG.length = 3 * 6 := by decide

end Sys2Proof.Tests
end

/-! ## Scope (spec/00_scope.md): what the parameters of R6 admit -/

namespace Sys2Proof

/-- R6: a finite bound holds exactly the quantities up to it. -/
@[simp] theorem within_some (m n : Nat) : within (some m) n = true ↔ n ≤ m := decide_eq_true_iff

/-- R6: a bound that holds a quantity holds every smaller one. -/
theorem within_of_le {bound : Option Nat} {m n : Nat} (h : within bound m = true) (hn : n ≤ m) :
    within bound n = true := by
  cases bound with
  | none => rfl
  | some b => exact (within_some b n).2 (hn.trans ((within_some b m).1 h))

/-- R6: the parameters are legal exactly when each bound holds its least value. -/
theorem Params.legal_iff (p : Params) :
    p.legal = true ↔ within p.opw 17 = true ∧ within p.maxArgs 1 = true ∧ within p.maxWords 6 = true ∧
      within p.maxRaw 18 = true := by
  simp [Params.legal, and_assoc]

/-- R6: a signed port of at least 17 bits presents every Word. -/
theorem fitsOpw_toNat {opw : Option Nat} (h : within opw 17 = true) (w : Word) :
    fitsOpw opw (w.toNat : Int) = true := by
  cases opw with
  | none => rfl
  | some n =>
    have hpow : (2 : Int) ^ 17 ≤ 2 ^ n := pow_le_pow_right₀ (by norm_num) ((within_some n 17).1 h)
    have hw := w.isLt
    exact decide_eq_true (by omega)

/-- R6, R80: a `BUILD` is admitted exactly when every operand fits the port and the arguments are not too many. -/
theorem Instr.wf_build_iff (p : Params) (command : Int) (arguments : List Int) :
    (Instr.build command arguments).wf p = true ↔
      (∀ v ∈ command :: arguments, fitsOpw p.opw v = true) ∧ within p.maxArgs arguments.length = true := by
  rw [← List.all_eq_true, Instr.wf, Instr.inadmissible]
  cases (command :: arguments).all (fitsOpw p.opw) <;> cases within p.maxArgs arguments.length <;> simp

/-- R6, R94: a `PARSE` is admitted exactly when neither its bytes nor its expected Words are too many. -/
theorem Instr.wf_parse_iff (p : Params) (raw : List Byte) (count : Nat) :
    (Instr.parse raw count).wf p = true ↔
      within p.maxRaw raw.length = true ∧ within p.maxWords count = true := by
  rw [Instr.wf, Instr.inadmissible]
  cases within p.maxRaw raw.length <;> cases within p.maxWords count <;> simp

namespace Machine

/-- R75: the dispatch of `BUILD`. -/
theorem exec_build (command : Int) (arguments : List Int) (s : State) :
    exec (.build command arguments) s = execBuild command arguments s := rfl

/-- R85: the dispatch of `PARSE`. -/
theorem exec_parse (raw : List Byte) (count : Nat) (s : State) :
    exec (.parse raw count) s = execParse raw count s := rfl

/-- R6: an operation that is not admitted is refused. -/
theorem ifAdmitted_of_not_wf {i : Instr} {s : State} (f : State → Result) (h : ¬ i.wf s.params = true) :
    ∃ why, ifAdmitted i s f = .refused (.notAdmitted why) := by
  obtain ⟨hwf, -⟩ | ⟨why, -, hr⟩ := ifAdmitted_cases i s f
  · exact absurd hwf h
  · exact ⟨why, hr⟩

/-- R42, R75: an admitted `BUILD` of Words answers `OK` with their outbound frame. -/
theorem exec_build_words {command : Word} {arguments : List Word} {s : State}
    (h : (Instr.build command.toNat (arguments.map fun w => (w.toNat : Int))).wf s.params = true) :
    exec (.build command.toNat (arguments.map fun w => (w.toNat : Int))) s =
      .next (deliver ⟨.ok, .build (outboundFrame command arguments)⟩ s) := by
  rw [exec_build, execBuild, ifAdmitted_of_wf _ h, buildFrame, (buildWords_eq_some_iff _ _ _ _).2 ⟨rfl, rfl⟩]
  exact emitFrame_eq command arguments s

/-- R85, R106: an admitted `PARSE` answers, whatever its frame holds. -/
theorem exec_parse_answers {raw : List Byte} {count : Nat} {s : State}
    (h : (Instr.parse raw count).wf s.params = true) :
    ∃ t r, exec (.parse raw count) s = .next t ∧ Answers s t r := by
  rw [exec_parse]
  obtain ⟨why, hw, -⟩ | ⟨-, ⟨-, he⟩ | ⟨-, -, -, he⟩ | ⟨-, -, k, -, -, -, he⟩ | ⟨-, -, -, ws, -, -, he⟩⟩ :=
    execParse_cases raw count s
  · simp [Instr.wf, hw] at h
  all_goals exact ⟨_, _, he, answers_deliver _ s⟩

/-- R48: a listed command sends at most one argument Word and expects at most six Words. -/
theorem commandDescriptors_bounds :
    ∀ d ∈ commandDescriptors, d.argumentsSent ≤ 1 ∧ d.expectedWordCount ≤ 6 := by decide

/-- R6, R48: under legal parameters the `BUILD` of a listed command with its arguments is admitted. -/
theorem wf_build_of_listed {p : Params} {d : CommandDescriptor} {arguments : List Word} (hp : p.legal = true)
    (hd : d ∈ commandDescriptors) (ha : arguments.length = d.argumentsSent) :
    (Instr.build d.code.toNat (arguments.map fun w => (w.toNat : Int))).wf p = true := by
  obtain ⟨hopw, hargs, -, -⟩ := (Params.legal_iff p).1 hp
  obtain ⟨hsent, -⟩ := commandDescriptors_bounds d hd
  refine (Instr.wf_build_iff _ _ _).2 ⟨?_, within_of_le hargs (by simpa [ha] using hsent)⟩
  rw [List.forall_mem_cons, List.forall_mem_map]
  exact ⟨fitsOpw_toNat hopw d.code, fun w _ => fitsOpw_toNat hopw w⟩

/-- R6, R48: under legal parameters the `PARSE` of a listed command's response frame is admitted. -/
theorem wf_parse_of_listed {p : Params} {d : CommandDescriptor} {raw : List Byte} (hp : p.legal = true)
    (hd : d ∈ commandDescriptors) (hr : raw.length = 3 * d.expectedWordCount) :
    (Instr.parse raw d.expectedWordCount).wf p = true := by
  obtain ⟨-, -, hwords, hraw⟩ := (Params.legal_iff p).1 hp
  obtain ⟨-, hcount⟩ := commandDescriptors_bounds d hd
  exact (Instr.wf_parse_iff _ _ _).2 ⟨within_of_le hraw (by omega), within_of_le hwords hcount⟩

/-- Settles O49: the least parameters admit every row of R48's table, and an admitted `BUILD` or `PARSE` answers. -/
theorem listedCommandsAreServed : Obligations.ListedCommandsAreServed := by
  intro s d args raw hlegal hd hargs hraw
  refine ⟨⟨_, outboundFrame d.code args, exec_build_words (wf_build_of_listed hlegal hd hargs),
    answers_deliver _ s, ?_⟩, exec_parse_answers (wf_parse_of_listed hlegal hd hraw)⟩
  rw [outboundFrame_length, hargs]

/-- Settles O2, by R6's defaults, which reset takes over. -/
theorem resetTakesTheDefaultParameters : Obligations.ResetTakesTheDefaultParameters :=
  ⟨rfl, rfl, rfl, rfl, rfl⟩

/-- Settles O13: a quantity above a finite bound fails the admission test, so the operation is refused. -/
theorem requestBeyondAParameterIsRefused : Obligations.RequestBeyondAParameterIsRefused := by
  refine fun s m => ⟨fun command arguments hm hlt => ?_, fun raw count hm hlt => ?_, fun raw count hm hlt => ?_⟩ <;>
    refine ifAdmitted_of_not_wf _ fun hwf => ?_
  · obtain ⟨-, hargs⟩ := (Instr.wf_build_iff _ _ _).1 hwf
    rw [hm, within_some] at hargs
    omega
  · obtain ⟨hraw, -⟩ := (Instr.wf_parse_iff _ _ _).1 hwf
    rw [hm, within_some] at hraw
    omega
  · obtain ⟨-, hwords⟩ := (Instr.wf_parse_iff _ _ _).1 hwf
    rw [hm, within_some] at hwords
    omega

end Machine

end Sys2Proof

/-! ## State (spec/10_state.md): what an operation keeps, and what its response depends on -/

namespace Sys2Proof.Machine

/-- R14: no operation changes a parameter. -/
theorem exec_next_params {i : Instr} {s t : State} (h : exec i s = .next t) : t.params = s.params := by
  obtain ⟨r, rfl | rfl⟩ := exec_next h
  · exact respond_params r s
  · exact deliver_params r s

/-- Settles O6: a step is idle, or it is an operation taken from the host's list, and no operation changes a
parameter. -/
theorem stepKeepsTheParameters : Obligations.StepKeepsTheParameters := by
  intro s t h
  obtain ⟨-, rfl⟩ | ⟨_, rest, i, -, -, hexec⟩ := step_next h
  · rfl
  · exact (exec_next_params hexec).trans rfl

/-- R45: the more significant byte by division. -/
theorem hiByte_eq_ofNat (w : Word) : hiByte w = BitVec.ofNat 8 (w.toNat / 256) := by
  rw [← toNat_hiByte, BitVec.ofNat_toNat, BitVec.setWidth_eq]

/-- R45: the less significant byte by remainder. -/
theorem loByte_eq_ofNat (w : Word) : loByte w = BitVec.ofNat 8 (w.toNat % 256) := by
  rw [← toNat_loByte, BitVec.ofNat_toNat, BitVec.setWidth_eq]

/-- R42: the outbound frame of a command without arguments is the command's two bytes. -/
theorem outboundFrame_nil (command : Word) :
    outboundFrame command [] = [BitVec.ofNat 8 (command.toNat / 256), BitVec.ofNat 8 (command.toNat % 256)] := by
  rw [← hiByte_eq_ofNat, ← loByte_eq_ofNat]
  rfl

/-- Settles O30: the earlier operation kept the parameters, so the `BUILD` is admitted after it too, and an admitted
`BUILD` answers with the frame of its own operands. -/
theorem buildInheritsNoArguments : Obligations.BuildInheritsNoArguments := by
  intro i s t command hexec hwf
  rw [← exec_next_params hexec] at hwf
  rw [← outboundFrame_nil]
  exact ⟨_, exec_build_words (arguments := []) hwf, answers_deliver _ t⟩

/-- R10: under the parameters `p` a meaning gives one and the same response in every state, or one and the same
refusal. -/
def ResponseFixedBy (p : Params) (meaning : State → Result) : Prop :=
  (∃ r, ∀ s, s.params = p → ∃ t, meaning s = .next t ∧ Answers s t r) ∨
    ∃ why, ∀ s, s.params = p → meaning s = .refused why

namespace ResponseFixedBy

variable {p : Params} {meaning : State → Result} {s s' : State}

/-- A response given in one state is given in every other with the same parameters. -/
theorem answers (h : ResponseFixedBy p meaning) (hs : s.params = p) (hs' : s'.params = p) {r : Response}
    (hr : ∃ t, meaning s = .next t ∧ Answers s t r) : ∃ t, meaning s' = .next t ∧ Answers s' t r := by
  obtain ⟨t, hnext, hans⟩ := hr
  obtain ⟨r', hfixed⟩ | ⟨why, hfixed⟩ := h
  · obtain ⟨t', hnext', hans'⟩ := hfixed s hs
    obtain rfl : t = t' := by simpa [hnext] using hnext'
    obtain rfl : r = r' := hans.response_unique hans'.responses
    exact hfixed s' hs'
  · simp [hfixed s hs] at hnext

/-- A refusal given in one state is given in every other with the same parameters. -/
theorem refused (h : ResponseFixedBy p meaning) (hs : s.params = p) (hs' : s'.params = p) {why : Refusal}
    (hr : meaning s = .refused why) : meaning s' = .refused why := by
  obtain ⟨_, hfixed⟩ | ⟨why', hfixed⟩ := h
  · obtain ⟨t, hnext, -⟩ := hfixed s hs
    simp [hnext] at hr
  · obtain rfl : why = why' := by simpa [hr] using hfixed s hs
    exact hfixed s' hs'

end ResponseFixedBy

/-- R6, R10: admission looks at the request and the parameters alone, so an operation whose meaning delivers a response
fixed by them is answered with it or refused by them. -/
theorem ifAdmitted_responseFixedBy {i : Instr} {p : Params} {meaning : State → Result}
    (h : ∃ r, ∀ s, s.params = p → meaning s = .next (deliver r s)) :
    ResponseFixedBy p fun s => ifAdmitted i s meaning := by
  obtain ⟨r, hr⟩ := h
  cases hi : i.inadmissible p with
  | none => exact .inl ⟨r, fun s hs => ⟨deliver r s, by simp [ifAdmitted, hs, hi, hr], answers_deliver r s⟩⟩
  | some why => exact .inr ⟨.notAdmitted why, fun s hs => by simp [ifAdmitted, hs, hi]⟩

/-- R75, R76: what `BUILD` delivers is fixed by its operands. -/
theorem buildFrame_response (command : Int) (arguments : List Int) :
    ∃ r, ∀ s, buildFrame command arguments s = .next (deliver r s) := by
  cases hb : buildWords command arguments with
  | none => exact ⟨⟨.invalidArgument, .build []⟩, fun s => by rw [buildFrame, hb]; rfl⟩
  | some p => exact ⟨_, fun s => by rw [buildFrame, hb]; exact emitFrame_eq p.1 p.2 s⟩

/-- R91: a frame has one sequence of Words of each length. -/
theorem WordsOf.unique {raw : List Byte} {ws ws' : List Word} (h : WordsOf raw ws) (h' : WordsOf raw ws')
    (hlen : ws.length = ws'.length) : ws = ws' := by
  refine List.ext_getElem? fun k => ?_
  by_cases hk : k < ws.length
  · obtain ⟨m, l, hm, hl, hw⟩ := h k hk
    obtain ⟨m', l', hm', hl', hw'⟩ := h' k (hlen ▸ hk)
    obtain rfl : m = m' := by simpa [hm] using hm'
    obtain rfl : l = l' := by simpa [hl] using hl'
    rw [hw, hw']
  · rw [List.getElem?_eq_none (by omega), List.getElem?_eq_none (by omega)]

/-- R91: over valid triplets `PARSE` delivers the Words of its own frame, whatever the state held before. -/
theorem parseTriplets_openRaw_valid {raw : List Byte} {n : Nat} (flag : Bool)
    (h : ∀ j < n, TripletValid raw j) (s : State) :
    ∃ ws : List Word, ws.length = n ∧ WordsOf raw ws ∧
      parseTriplets flag n (openRaw raw s) = .next (deliver ⟨.ok, .parse ws (some flag) none⟩ s) := by
  obtain ⟨ws, hlen, hws, heq⟩ :=
    parseTriplets_valid (flag := flag) (n := n) (s := openRaw raw s) (by simpa using h)
  exact ⟨ws, hlen, fun j hj => by simpa using hws j (hlen ▸ hj), heq⟩

/-- R85, R90, R91: what the loop over whole triplets delivers is fixed by the frame. -/
theorem parseTriplets_response {raw : List Byte} {n : Nat} (flag : Bool) (h : 3 * n ≤ raw.length) :
    ∃ r, ∀ s, parseTriplets flag n (openRaw raw s) = .next (deliver r s) := by
  obtain hv | ⟨k, hk, hb, hv⟩ := all_valid_or_first_bad h
  · obtain ⟨ws, hlen, hws, -⟩ := parseTriplets_openRaw_valid flag hv State.reset
    refine ⟨⟨.ok, .parse ws (some flag) none⟩, fun s => ?_⟩
    obtain ⟨ws', hlen', hws', heq⟩ := parseTriplets_openRaw_valid flag hv s
    rw [heq, hws'.unique hws (hlen'.trans hlen.symm)]
  · refine ⟨⟨.checksumMismatch, .parse [] none (some k)⟩, fun s => ?_⟩
    rw [parseTriplets_bad hk (by simpa using hv) (by simpa using hb), openRaw_idx, Nat.zero_add]
    rfl

/-- R85 to R91: what `PARSE` delivers is fixed by its operands and the length policy. -/
theorem parseFrame_response (raw : List Byte) (count : Nat) (p : Params) :
    ∃ r, ∀ s, s.params = p → parseFrame raw count s = .next (deliver r s) := by
  by_cases h0 : count = 0
  · exact ⟨⟨.ok, .parse [] (some false) none⟩, fun s _ => by rw [parseFrame, if_pos h0]; rfl⟩
  · cases hlen : rejectsLength p.lenPolicy raw.length count with
    | true =>
      refine ⟨⟨.lengthMismatch, .parse [] none none⟩, fun s hs => ?_⟩
      simp only [parseFrame, if_neg h0, openRaw_params, openRaw_raw, hs, hlen]
      rfl
    | false =>
      obtain ⟨r, hr⟩ := parseTriplets_response (lengthMismatch raw.length count) (tripletCount_le raw.length count)
      refine ⟨r, fun s hs => ?_⟩
      simp only [parseFrame, if_neg h0, openRaw_params, openRaw_raw, hs, hlen, hr]

/-- R10: the response of every operation, or its refusal, is fixed by the request and the parameters. -/
theorem exec_responseFixedBy (i : Instr) (p : Params) : ResponseFixedBy p (exec i) := by
  cases i with
  | crc8 word => exact .inl ⟨_, fun s _ => ⟨_, rfl, answers_respond ⟨.ok, .crc8 (checksum word)⟩ s⟩⟩
  | crcchk word crcIn =>
    exact .inl ⟨_, fun s _ =>
      ⟨_, rfl, answers_respond ⟨.ok, .crcchk (matchFlag crcIn (checksum word)) (checksum word)⟩ s⟩⟩
  | tobytes word => exact .inl ⟨_, fun s _ => ⟨_, rfl, answers_respond _ s⟩⟩
  | frombytes hi lo => exact .inl ⟨_, fun s _ => ⟨_, rfl, answers_respond _ s⟩⟩
  | w2f high low => exact .inl ⟨_, fun s _ => ⟨_, rfl, answers_respond _ s⟩⟩
  | build command arguments =>
    obtain ⟨r, hr⟩ := buildFrame_response command arguments
    exact ifAdmitted_responseFixedBy ⟨r, fun s _ => hr s⟩
  | parse raw count => exact ifAdmitted_responseFixedBy (parseFrame_response raw count p)
  | reserved7 => exact .inr ⟨.reservedSelector, fun _ _ => rfl⟩

/-- Settles O45: the response or the refusal is fixed by the request and the parameters, which the two states share. -/
theorem responseDependsOnTheRequestAlone : Obligations.ResponseDependsOnTheRequestAlone := by
  intro i s s' hp
  have hfixed := exec_responseFixedBy i s'.params
  exact ⟨fun _ => ⟨hfixed.answers hp rfl, hfixed.answers rfl hp⟩,
    fun _ => ⟨hfixed.refused hp rfl, hfixed.refused rfl hp⟩⟩

end Sys2Proof.Machine

/-! ## Memory (spec/20_memory.md): accesses stay inside the buffers, and queued requests are answered in order -/

namespace Sys2Proof

/-- A run goes on from the state its first step answers. -/
theorem core_run_succ {M : Host.Core} {s t : M.State} (n : Nat) (h : M.step s = .next t) :
    M.run (n + 1) s = M.run n t := by
  rw [Host.Core.run, h]

/-- R36: a selector's number names the operation it came from. -/
@[simp] theorem Op.ofCode_code (op : Op) : Op.ofCode op.code = op := by
  cases op <;> rfl

/-- R35 to R37: the decoder reads back every encoding. -/
theorem decode_encode (i : Instr) : decode (encode i) = .ok i := by
  cases i with
  | crc8 word => simp [decode, encode, Instr.op, Instr.operands]
  | crcchk word crcIn => simp [decode, encode, Instr.op, Instr.operands, bind, Except.bind, pure, Except.pure]
  | tobytes word => simp [decode, encode, Instr.op, Instr.operands]
  | frombytes hi lo => simp [decode, encode, Instr.op, Instr.operands, bind, Except.bind, pure, Except.pure]
  | w2f high low => simp [decode, encode, Instr.op, Instr.operands, bind, Except.bind, pure, Except.pure]
  | build command arguments => rfl
  | parse raw expectedWordCount => simp [decode, encode, Instr.op, Instr.operands, bind, Except.bind, pure, Except.pure]
  | reserved7 => rfl

namespace Machine

/-- R25: an operation ends in no fault, since in every state it has a response or a refusal. -/
theorem exec_ne_fault (i : Instr) (s : State) (why : Fault) : exec i s ≠ .fault why := by
  obtain ⟨_, h⟩ | ⟨_, h⟩ := exec_responseFixedBy i s.params
  · obtain ⟨t, hnext, -⟩ := h s rfl
    simp [hnext]
  · simp [h s rfl]

/-- R25: a step ends in no fault. -/
theorem step_ne_fault (s : State) (why : Fault) : step s ≠ .fault why := by
  cases hq : s.requests with
  | nil => simp [step, takeRequest_nil hq]
  | cons r rest =>
    simp only [step, takeRequest_cons hq]
    cases decode r with
    | error _ => simp
    | ok i => exact exec_ne_fault i _ why

/-- R25: a loop whose triplets all lie inside `RAW` reads nothing after them, so bytes appended to `RAW` make no
difference. -/
theorem parseTriplets_append_raw (flag : Bool) {n : Nat} {s : State} (rest : List Byte)
    (h : 3 * (s.idx + n) ≤ s.raw.length) :
    parseTriplets flag n { s with raw := s.raw ++ rest } = parseTriplets flag n s := by
  induction n generalizing s with
  | zero => exact congrArg Host.Outcome.next (deliver_congr _ rfl rfl rfl rfl)
  | succ n ih =>
    obtain ⟨m, l, c, -, h0, h1, h2⟩ := memRead_three (buf := s.raw) (a := 3 * s.idx) (by omega)
    have inside {k : Nat} (hk : k < s.raw.length) : (s.raw ++ rest)[k]? = s.raw[k]? := List.getElem?_append_left hk
    rw [parseTriplets_succ h0 h1 h2, parseTriplets_succ ((inside (by omega)).trans h0)
      ((inside (by omega)).trans h1) ((inside (by omega)).trans h2)]
    have hrest := ih (s := bumpIdx (appendWord (joinBytes m l) (runEngine (joinBytes m l) s)))
      (by simp only [bumpIdx_idx, bumpIdx_raw, appendWord_idx, appendWord_raw, runEngine_idx, runEngine_raw]; omega)
    by_cases hc : c = checksum (joinBytes m l)
    · rw [if_pos hc, if_pos hc]
      exact hrest
    · rw [if_neg hc, if_neg hc]
      exact congrArg _ (deliver_congr _ rfl rfl rfl rfl)

/-- R88, R89: under `LENIENT` a frame of fewer whole triplets than expected, with a partial one after them or not, is
the flagged loop over those whole triplets alone. -/
theorem parseFrame_lenient_partial {raw rest : List Byte} {count : Nat} {s : State}
    (hpol : s.params.lenPolicy = .lenient) (hwhole : raw.length % 3 = 0) (hfew : raw.length < 3 * count)
    (hrest : rest.length < 3) :
    parseFrame (raw ++ rest) count s = parseTriplets true (raw.length / 3) (openRaw raw s) := by
  have hflag : lengthMismatch (raw ++ rest).length count = true := by
    rw [List.length_append]
    exact decide_eq_true (by omega)
  have hcount : tripletCount (raw ++ rest).length count = raw.length / 3 := by
    rw [tripletCount, if_pos hflag, List.length_append]
    omega
  simp only [parseFrame, if_neg (show count ≠ 0 by omega), openRaw_params, openRaw_raw, hpol, rejectsLength, hflag,
    hcount]
  exact parseTriplets_append_raw (s := openRaw raw s) true rest (by simp only [openRaw_idx, openRaw_raw]; omega)

/-- Settles O37: every operation has a response or a refusal, and under `LENIENT` both frames run the loop over the
same whole triplets. -/
theorem noAccessOutsideABuffer : Obligations.NoAccessOutsideABuffer := by
  refine ⟨exec_ne_fault, step_ne_fault, ?_⟩
  intro raw rest rest' count s r hpol hwhole hfew hrest hrest' hwf hwf'
  have hsame : exec (.parse (raw ++ rest) count) s = exec (.parse (raw ++ rest') count) s := by
    rw [exec_parse, exec_parse, execParse, execParse, ifAdmitted_of_wf _ hwf, ifAdmitted_of_wf _ hwf',
      parseFrame_lenient_partial hpol hwhole hfew hrest, parseFrame_lenient_partial hpol hwhole hfew hrest']
  rw [hsame]

/-- R6, R106: an admitted operation answers. -/
theorem exec_answers_of_wf {i : Instr} {s : State} (hop : i ≠ .reserved7) (hwf : i.wf s.params = true) :
    ∃ t r, exec i s = .next t ∧ Answers s t r := by
  cases i with
  | crc8 word => exact ⟨_, _, rfl, answers_respond ⟨.ok, .crc8 (checksum word)⟩ s⟩
  | crcchk word crcIn =>
    exact ⟨_, _, rfl, answers_respond ⟨.ok, .crcchk (matchFlag crcIn (checksum word)) (checksum word)⟩ s⟩
  | tobytes word => exact ⟨_, _, rfl, answers_respond _ s⟩
  | frombytes hi lo => exact ⟨_, _, rfl, answers_respond _ s⟩
  | w2f high low => exact ⟨_, _, rfl, answers_respond _ s⟩
  | build command arguments =>
    obtain ⟨r, hr⟩ := buildFrame_response command arguments
    exact ⟨_, r, (ifAdmitted_of_wf _ hwf).trans (hr s), answers_deliver r s⟩
  | parse raw count => exact exec_parse_answers hwf
  | reserved7 => exact absurd rfl hop

/-- R10, R106: an admitted operation has one response, which it gives in every state with the same parameters. -/
theorem exec_one_response_of_wf {i : Instr} {s : State} (hop : i ≠ .reserved7) (hwf : i.wf s.params = true) :
    ∃ r, ∀ s' : State, s'.params = s.params → ∃ t, exec i s' = .next t ∧ Answers s' t r := by
  obtain hfixed | ⟨why, hrefused⟩ := exec_responseFixedBy i s.params
  · exact hfixed
  · obtain ⟨t, _, hnext, -⟩ := exec_answers_of_wf hop hwf
    simp [hrefused s rfl] at hnext

/-- R35, R126: with an encoded operation as the host's next request, a step is that operation. -/
theorem step_of_encoded {s : State} {i : Instr} {rest : List Request} (h : s.requests = encode i :: rest) :
    step s = exec i { s with requests := rest } := by
  simp only [step, takeRequest_cons h, decode_encode]

/-- Settles O48, by induction on the queue: a step answers the first request with the response its operation has under
these parameters, and leaves the other requests and the parameters to the rest of the run. -/
theorem queuedRequestsAreAnsweredInOrder : Obligations.QueuedRequestsAreAnsweredInOrder := by
  intro ops
  induction ops with
  | nil =>
    intro s _ hreq
    exact ⟨s, [], rfl, hreq, rfl, by simp, .nil⟩
  | cons i ops ih =>
    intro s hadm hreq
    obtain ⟨⟨hop, hwf⟩, hadm⟩ := List.forall_mem_cons.1 hadm
    obtain ⟨r, hr⟩ := exec_one_response_of_wf hop hwf
    obtain ⟨t, hexec, hresp, hrest, hparams⟩ := hr { s with requests := ops.map encode } rfl
    replace hparams : t.params = s.params := hparams
    obtain ⟨u, rs, hrun, hdone, hkept, hall, heach⟩ := ih t (by simpa only [hparams] using hadm) hrest
    rw [hparams] at hkept heach
    refine ⟨u, r :: rs, ?_, hdone, hkept, by simp [hall, hresp], .cons hr heach⟩
    exact (core_run_succ _ ((step_of_encoded hreq).trans hexec)).trans hrun

end Machine

end Sys2Proof

/-! ## Encoding (spec/30_encoding.md): requests and operations determine each other, bad requests are refused, and the
outbound frame -/

namespace Sys2Proof

/-- Settles O8, by cases on the operation: each field of its encoding is read back by its own check. -/
theorem decodeReadsBackEveryEncoding : Obligations.DecodeReadsBackEveryEncoding := decode_encode

/-- R35 to R37: a request with an operation's selector and operand fields is the encoding of that operation. -/
theorem encode_eq_of_fields {r : Request} {i : Instr} (hop : Op.ofCode r.op = i.op)
    (hoperands : r.operands = i.operands) : encode i = r := by
  rw [encode, ← hop, ← hoperands, Op.code_ofCode]

/-- R36, R37, R39: everything the decoder reads: the reserved operation from the reserved selector, or an operation from
its encoding. -/
theorem decode_ok {r : Request} {i : Instr} (h : decode r = .ok i) :
    (r.op = 0b111#3 ∧ i = .reserved7) ∨ encode i = r := by
  unfold decode at h
  split at h
  case h_1 hop hoperands =>
    obtain ⟨w, hw, h⟩ := Except.bind_ok h
    cases h
    exact .inr (encode_eq_of_fields hop (by rw [hoperands, wordField_ok hw, Instr.operands]))
  case h_2 hop hoperands =>
    obtain ⟨w, hw, h⟩ := Except.bind_ok h
    obtain ⟨c, hc, h⟩ := Except.bind_ok h
    cases h
    exact .inr (encode_eq_of_fields hop (by rw [hoperands, wordField_ok hw, byteField_ok hc, Instr.operands]))
  case h_3 hop hoperands =>
    obtain ⟨w, hw, h⟩ := Except.bind_ok h
    cases h
    exact .inr (encode_eq_of_fields hop (by rw [hoperands, wordField_ok hw, Instr.operands]))
  case h_4 hop hoperands =>
    obtain ⟨hi, hhi, h⟩ := Except.bind_ok h
    obtain ⟨lo, hlo, h⟩ := Except.bind_ok h
    cases h
    exact .inr (encode_eq_of_fields hop (by rw [hoperands, byteField_ok hhi, byteField_ok hlo, Instr.operands]))
  case h_5 hop hoperands =>
    obtain ⟨high, hhigh, h⟩ := Except.bind_ok h
    obtain ⟨low, hlow, h⟩ := Except.bind_ok h
    cases h
    exact .inr (encode_eq_of_fields hop (by rw [hoperands, wordField_ok hhigh, wordField_ok hlow, Instr.operands]))
  case h_6 hop hoperands =>
    cases h
    exact .inr (encode_eq_of_fields hop hoperands)
  case h_7 hop hoperands =>
    obtain ⟨raw, hraw, h⟩ := Except.bind_ok h
    obtain ⟨count, hcount, h⟩ := Except.bind_ok h
    cases h
    exact .inr (encode_eq_of_fields hop (by rw [hoperands, bytesField_ok hraw, countField_ok hcount, Instr.operands]))
  case h_8 hop =>
    cases h
    exact .inl ⟨by rw [← Op.code_ofCode r.op, hop, Op.code], rfl⟩
  case h_9 => cases h

/-- Settles O9: the one other request that decodes has the reserved selector. -/
theorem everyDecodedRequestIsItsEncoding : Obligations.EveryDecodedRequestIsItsEncoding := by
  intro r i h hop
  obtain ⟨hreserved, -⟩ | hencode := decode_ok h
  · exact absurd hreserved hop
  · exact hencode

/-- Settles O7: the decoder computes on each of the eight requests. -/
theorem knownRequestsDecode : Obligations.KnownRequestsDecode := by
  unfold Obligations.KnownRequestsDecode
  decide

/-- R36, R37: a request in format WC is read field by field. -/
theorem decode_wc (word crcIn : Int) : decode ⟨0b001#3, .wc word crcIn⟩ =
    (wordField word >>= fun w => byteField crcIn >>= fun c => .ok (.crcchk w c)) := rfl

/-- R36, R37: a request in format BB is read field by field. -/
theorem decode_bb (hi lo : Int) : decode ⟨0b011#3, .bb hi lo⟩ =
    (byteField hi >>= fun h => byteField lo >>= fun l => .ok (.frombytes h l)) := rfl

/-- R36, R37: a request in format RN is read field by field. -/
theorem decode_rn (raw : List Int) (count : Int) : decode ⟨0b110#3, .rn raw count⟩ =
    (bytesField raw >>= fun bs => countField count >>= fun n => .ok (.parse bs n)) := rfl

/-- A sequence of checks is refused by its first refusal. -/
@[simp] theorem Except.error_bind {α β : Type} (why : DecodeError) (f : α → Except DecodeError β) :
    (Except.error why >>= f) = .error why := rfl

/-- A check that answers hands its value to the next. -/
@[simp] theorem Except.ok_bind {α β : Type} (a : α) (f : α → Except DecodeError β) :
    (Except.ok a >>= f) = f a := rfl

/-- R37: one value outside the Byte range is enough for a sequence to be none of Bytes. -/
theorem bytesField_outside {vs : List Int} {v : Int} (hv : v ∈ vs) (h : ¬ (0 ≤ v ∧ v ≤ 255)) :
    bytesField vs = .error .byteOutOfRange := by
  cases hvs : asBytes vs with
  | none => simp [bytesField, hvs]
  | some bs =>
    obtain rfl := (asBytes_eq_some_iff vs bs).1 hvs
    obtain ⟨b, -, rfl⟩ := List.mem_map.1 hv
    have := b.isLt
    omega

/-- R37: a negative count is refused. -/
theorem countField_negative {v : Int} (h : v < 0) : countField v = .error .negativeCount := by
  have hneg : ¬ 0 ≤ v := by omega
  simp [countField, asCount, hneg]

namespace Machine

/-- R37: a step whose next request does not decode is refused for the decoder's reason. -/
theorem step_of_decode_error {s : State} {r : Request} {rest : List Request} {why : DecodeError}
    (hr : s.requests = r :: rest) (h : decode r = .error why) : step s = .refused (.badRequest why) := by
  simp only [step, takeRequest_cons hr, h]

/-- R35, R126: a step whose next request decodes is the operation it decodes to. -/
theorem step_of_decode_ok {s : State} {r : Request} {rest : List Request} {i : Instr}
    (hr : s.requests = r :: rest) (h : decode r = .ok i) : step s = exec i { s with requests := rest } := by
  simp only [step, takeRequest_cons hr, h]

/-- Settles O12: every field before the bad one passes its check, and the bad one's own check refuses it. -/
theorem operandOutsideTheByteRangeIsRefused : Obligations.OperandOutsideTheByteRangeIsRefused := by
  intro s rest v w b before after
  refine ⟨fun hv => ⟨fun hr => ?_, fun hr => ?_, fun hr => ?_, fun hr => ?_⟩, fun hv hr => ?_⟩ <;>
    refine step_of_decode_error hr ?_
  · simp [decode_wc, byteField_outside hv]
  · simp [decode_bb, byteField_outside hv]
  · simp [decode_bb, byteField_outside hv]
  · simp [decode_rn, bytesField_outside (List.mem_append_right _ List.mem_cons_self) hv]
  · simp [decode_rn, countField_negative hv]

/-- Settles O10: the reserved selector decodes to the reserved operation whatever the operands, and that operation's
meaning is the refusal. -/
theorem reservedSelectorIsRefused : Obligations.ReservedSelectorIsRefused := by
  have hexec (s : State) : exec .reserved7 s = .refused .reservedSelector := rfl
  refine ⟨hexec, fun s operands rest hr => ?_⟩
  rw [step_of_decode_ok hr (show decode ⟨0b111#3, operands⟩ = .ok .reserved7 from rfl), hexec]

/-- R55: a shift of the 8-bit register is the rule's shift of a number, cut to 8 bits. -/
theorem toNat_crcShift (b : Byte) : (crcShift b).toNat = refShift b.toNat := by
  have hcut (n : Nat) : n &&& 0xFF = n % 2 ^ 8 := Nat.and_two_pow_sub_one_eq_mod n 8
  unfold crcShift refShift
  rw [BitVec.testBit_toNat]
  cases b.getLsbD 7 with
  | true =>
    rw [if_pos rfl, if_pos rfl, BitVec.toNat_xor, BitVec.toNat_shiftLeft, hcut, Nat.xor_mod_two_pow]
    rfl
  | false => rw [if_neg Bool.false_ne_true, if_neg Bool.false_ne_true, BitVec.toNat_shiftLeft, hcut]

/-- R55: any number of shifts of the register is as many of the rule's. -/
theorem toNat_crcShifts (n : Nat) (b : Byte) : (crcShifts n b).toNat = refShift^[n] b.toNat := by
  induction n generalizing b with
  | zero => rfl
  | succ n ih => rw [crcShifts, ih, toNat_crcShift, Function.iterate_succ_apply]

/-- R55: feeding a byte to the register is the rule's XOR and eight shifts. -/
theorem toNat_crcFeed (b crc : Byte) : (crcFeed b crc).toNat = refFeed crc.toNat b.toNat := by
  rw [crcFeed, toNat_crcShifts, BitVec.toNat_xor, refFeed]

/-- R55: the checksum is the number the rule's pseudocode computes over unbounded numbers. -/
theorem toNat_checksum (w : Word) : (checksum w).toNat = refChecksum w.toNat := by
  have hhi : w.toNat >>> 8 = (hiByte w).toNat := by rw [toNat_hiByte, Nat.shiftRight_eq_div_pow]
  have hlo : w.toNat &&& 0xFF = (loByte w).toNat := by
    rw [toNat_loByte]
    exact Nat.and_two_pow_sub_one_eq_mod _ 8
  rw [refChecksum, hhi, hlo, checksum, toNat_crcFeed, toNat_crcFeed]
  rfl

/-- R41: the checksum byte by the rule's pseudocode. -/
theorem checksum_eq_ofNat (w : Word) : checksum w = BitVec.ofNat 8 (refChecksum w.toNat) := by
  rw [← toNat_checksum, BitVec.ofNat_toNat, BitVec.setWidth_eq]

/-- R45: the more significant byte of an integer that is a Word. -/
theorem hiByte_eq_ofInt (w : Word) : hiByte w = BitVec.ofInt 8 ((w.toNat : Int) / 256) := by
  rw [hiByte_eq_ofNat, ← BitVec.ofInt_natCast]
  rfl

/-- R45: the less significant byte of an integer that is a Word. -/
theorem loByte_eq_ofInt (w : Word) : loByte w = BitVec.ofInt 8 ((w.toNat : Int) % 256) := by
  rw [loByte_eq_ofNat, ← BitVec.ofInt_natCast]
  rfl

/-- R42, R77: the command's two bytes, then the triplets. -/
theorem outboundFrame_eq_cons (command : Word) (arguments : List Word) :
    outboundFrame command arguments = hiByte command :: loByte command :: inboundFrame arguments := rfl

/-- R24, R42: triplet `k` of an outbound frame stands at offsets `2+3k`, `3+3k` and `4+3k`. -/
theorem outboundFrame_get {command : Word} {ws : List Word} {k : Nat} {w : Word} (h : ws[k]? = some w) :
    (outboundFrame command ws)[2 + 3 * k]? = some (hiByte w) ∧
      (outboundFrame command ws)[3 + 3 * k]? = some (loByte w) ∧
      (outboundFrame command ws)[4 + 3 * k]? = some (checksum w) := by
  have hskip (j : Nat) : (outboundFrame command ws)[j + 2]? = (inboundFrame ws)[j]? := rfl
  rw [show 2 + 3 * k = 3 * k + 2 by omega, show 3 + 3 * k = 3 * k + 1 + 2 by omega,
    show 4 + 3 * k = 3 * k + 2 + 2 by omega, hskip, hskip, hskip]
  exact inboundFrame_get h

/-- R42, R76: an admitted `BUILD` whose operands all lie in [0, 65535] answers `OK` with the frame of their Words. -/
theorem exec_build_in_range {command : Int} {arguments : List Int} {s : State}
    (hwf : (Instr.build command arguments).wf s.params = true)
    (h : ∀ v ∈ command :: arguments, 0 ≤ v ∧ v ≤ 65535) :
    ∃ c ws, command = (c.toNat : Int) ∧ arguments = ws.map (fun w => (w.toNat : Int)) ∧
      exec (.build command arguments) s = .next (deliver ⟨.ok, .build (outboundFrame c ws)⟩ s) := by
  obtain ⟨why, hw, -⟩ | ⟨-, ⟨v, hv, hout⟩, -⟩ | ⟨-, hframe⟩ := execBuild_cases command arguments s
  · simp [Instr.wf, hw] at hwf
  · exact absurd (h v hv) hout
  · exact hframe

/-- Settles O28: the operands are Words, the answer is their outbound frame, and each byte of a Word and its checksum
have the values the rules give. -/
theorem buildEmitsTheFrame : Obligations.BuildEmitsTheFrame := by
  intro command arguments s hwf hcommand harguments
  obtain ⟨c, ws, rfl, rfl, hexec⟩ := exec_build_in_range hwf (List.forall_mem_cons.2 ⟨hcommand, harguments⟩)
  refine ⟨_, outboundFrame c ws, hexec, answers_deliver _ s, buffersEmpty_deliver _ s, ?_, ?_, ?_, ?_⟩
  · rw [outboundFrame_length, List.length_map]
  · rw [← hiByte_eq_ofInt, outboundFrame_eq_cons, List.getElem?_cons_zero]
  · rw [← loByte_eq_ofInt, outboundFrame_eq_cons, List.getElem?_cons_succ, List.getElem?_cons_zero]
  · intro k a ha
    obtain ⟨w, hw, rfl⟩ := by simpa only [List.getElem?_map, Option.map_eq_some_iff] using ha
    rw [← hiByte_eq_ofInt, ← loByte_eq_ofInt, Int.toNat_natCast, ← checksum_eq_ofNat]
    exact outboundFrame_get hw

end Machine

end Sys2Proof

/-! ## The Checksum Engine (spec/40_checksum_engine.md): `CRC8` and `CRCCHK` answer with the checksum of their Word, and a
value that is no Word is refused -/

namespace Sys2Proof

/-- R36, R37: a `CRC8` request is read by its one field. -/
theorem decode_crc8 (word : Int) : decode ⟨0b000#3, .w word⟩ = (wordField word >>= fun w => .ok (.crc8 w)) := rfl

/-- R36, R37: a `TOBYTES` request is read by its one field. -/
theorem decode_tobytes (word : Int) : decode ⟨0b010#3, .w word⟩ = (wordField word >>= fun w => .ok (.tobytes w)) := rfl

/-- R36, R37: a request in format WW is read field by field. -/
theorem decode_ww (high low : Int) : decode ⟨0b100#3, .ww high low⟩ =
    (wordField high >>= fun h => wordField low >>= fun l => .ok (.w2f h l)) := rfl

/-- R59: the one reason a Word field is ever refused for is its range. -/
theorem wordField_cases (v : Int) : (∃ w, wordField v = .ok w) ∨ wordField v = .error .wordOutOfRange := by
  cases h : asWord v with
  | none => exact .inr (by rw [wordField, h])
  | some w => exact .inl ⟨w, by rw [wordField, h]⟩

/-- R59, R66: a `W2F` request with either Word out of range is refused. -/
theorem decode_ww_outside {v : Int} (hv : ¬ (0 ≤ v ∧ v ≤ 65535)) (other : Int) :
    decode ⟨0b100#3, .ww v other⟩ = .error .wordOutOfRange ∧
      decode ⟨0b100#3, .ww other v⟩ = .error .wordOutOfRange := by
  rw [decode_ww, decode_ww, wordField_outside hv]
  obtain ⟨w, hw⟩ | hw := wordField_cases other
  · simp [hw]
  · simp [hw]

namespace Machine

/-- R55: `CRC8` delivers the checksum of its Word; the register it ran on is free again, so nothing else of the run is
left. -/
theorem exec_crc8 (w : Word) (s : State) :
    exec (.crc8 w) s = .next (respond ⟨.ok, .crc8 (checksum w)⟩ s) := rfl

/-- R58: `CRCCHK` delivers the checksum of its Word and whether the received byte equals it. -/
theorem exec_crcchk (w : Word) (c : Byte) (s : State) :
    exec (.crcchk w c) s = .next (respond ⟨.ok, .crcchk (decide (c = checksum w)) (checksum w)⟩ s) := rfl

/-- R58: `match` is 1 exactly for the byte that is the checksum. -/
theorem exec_crcchk_match_iff (w : Word) (c : Byte) (s : State) :
    (∃ t x, exec (.crcchk w c) s = .next t ∧ Answers s t ⟨.ok, .crcchk true x⟩) ↔ c = checksum w := by
  rw [exec_crcchk]
  constructor
  · rintro ⟨t, x, ⟨rfl⟩, hanswers⟩
    have hresponse := hanswers.response_unique (respond_responses _ s)
    simp only [Response.mk.injEq, Results.crcchk.injEq, true_and] at hresponse
    exact of_decide_eq_true hresponse.1.symm
  · rintro rfl
    exact ⟨_, checksum w, rfl, by simpa using answers_respond _ s⟩

/-- Settles O14: `CRC8` delivers the register's checksum, which is the rule's number for every Word; the five values
are computed. -/
theorem crc8AnswersTheChecksum : Obligations.Crc8AnswersTheChecksum := by
  refine ⟨fun w s => ⟨_, checksum w, exec_crc8 w s, answers_respond _ s, buffersKept_respond _ s, toNat_checksum w⟩,
    fun w => decode_encode (.crc8 w), fun p hp s => ⟨_, exec_crc8 p.1 s, ?_⟩⟩
  have hvalue : checksum p.1 = p.2 := by
    revert p
    exact List.forall_iff_forall_mem.1 (by decide +kernel)
  rw [hvalue]
  exact answers_respond _ s

/-- Settles O15: `CRCCHK` delivers the register's checksum and the comparison with it, so the byte that matches is the
checksum and no other; the four values are computed. -/
theorem crcchkComparesWithTheChecksum : Obligations.CrcchkComparesWithTheChecksum := by
  refine ⟨fun w c s =>
      ⟨_, checksum w, exec_crcchk w c s, answers_respond _ s, buffersKept_respond _ s, toNat_checksum w⟩,
    fun w c => decode_encode (.crcchk w c), fun w s => ?_, fun p hp s => ⟨_, exec_crcchk p.1 p.2.1 s, ?_⟩⟩
  · simp only [exec_crcchk_match_iff, existsUnique_eq]
  · have hvalue : checksum p.1 = p.2.2.2 ∧ decide (p.2.1 = p.2.2.2) = p.2.2.1 := by
      revert p
      exact List.forall_iff_forall_mem.1 (by decide +kernel)
    obtain ⟨hchecksum, hmatch⟩ := hvalue
    rw [hchecksum, hmatch]
    exact answers_respond _ s

/-- Settles O11: the bad Word's own check refuses it, and a Word operand before it could only be refused for the same
reason. -/
theorem operandOutsideTheWordRangeIsRefused : Obligations.OperandOutsideTheWordRangeIsRefused := by
  intro s rest v other hv
  obtain ⟨hhigh, hlow⟩ := decode_ww_outside hv other
  refine ⟨fun hr => step_of_decode_error hr ?_, fun hr => step_of_decode_error hr ?_,
    fun hr => step_of_decode_error hr ?_, fun hr => step_of_decode_error hr hhigh,
    fun hr => step_of_decode_error hr hlow⟩
  · rw [decode_crc8, wordField_outside hv, Except.error_bind]
  · rw [decode_wc, wordField_outside hv, Except.error_bind]
  · rw [decode_tobytes, wordField_outside hv, Except.error_bind]

end Machine

end Sys2Proof

/-! ## The Word Codec (spec/41_word_codec.md): `TOBYTES`, `FROMBYTES` and `W2F` answer with the parts or the whole by value,
and a byte operand that is none is refused -/

namespace Sys2Proof

/-- R67: the one reason a Byte field is ever refused for is its range. -/
theorem byteField_cases (v : Int) : (∃ b, byteField v = .ok b) ∨ byteField v = .error .byteOutOfRange := by
  cases h : asByte v with
  | none => exact .inr (by rw [byteField, h])
  | some b => exact .inl ⟨b, by rw [byteField, h]⟩

/-- R67: a `FROMBYTES` request with either byte out of range, or both, is refused. -/
theorem decode_bb_outside {hi lo : Int} (h : ¬ ((0 ≤ hi ∧ hi ≤ 255) ∧ 0 ≤ lo ∧ lo ≤ 255)) :
    decode ⟨0b011#3, .bb hi lo⟩ = .error .byteOutOfRange := by
  rw [decode_bb]
  obtain hhi | hlo := not_and_or.1 h
  · rw [byteField_outside hhi, Except.error_bind]
  · rw [byteField_outside hlo]
    obtain ⟨b, hb⟩ | hb := byteField_cases hi
    · rw [hb, Except.ok_bind, Except.error_bind]
    · rw [hb, Except.error_bind]

namespace Machine

/-- R65: `TOBYTES` delivers the two bytes of its Word, the more significant first. -/
theorem exec_tobytes (w : Word) (s : State) :
    exec (.tobytes w) s = .next (respond ⟨.ok, .tobytes (hiByte w) (loByte w)⟩ s) := rfl

/-- R67: `FROMBYTES` delivers its two bytes joined. -/
theorem exec_frombytes (hi lo : Byte) (s : State) :
    exec (.frombytes hi lo) s = .next (respond ⟨.ok, .frombytes (joinBytes hi lo)⟩ s) := rfl

/-- R69: `W2F` delivers its two Words side by side. -/
theorem exec_w2f (high low : Word) (s : State) :
    exec (.w2f high low) s = .next (respond ⟨.ok, .w2f (joinWords high low)⟩ s) := rfl

/-- R69: the pattern determines both Words: they are its quotient and its remainder by 65536. -/
theorem joinWords_inj {high low high' low' : Word} (h : joinWords high low = joinWords high' low') :
    high = high' ∧ low = low' := by
  have hvalue := congrArg BitVec.toNat h
  rw [toNat_joinWords, toNat_joinWords] at hvalue
  have hlow := low.isLt
  have hlow' := low'.isLt
  exact ⟨BitVec.eq_of_toNat_eq (by omega), BitVec.eq_of_toNat_eq (by omega)⟩

/-- R69: the one pattern `W2F` is answered with. -/
theorem exec_w2f_answer {high low : Word} {f : Pattern32} {s t : State} (hexec : exec (.w2f high low) s = .next t)
    (hanswers : Answers s t ⟨.ok, .w2f f⟩) : f = joinWords high low := by
  rw [exec_w2f] at hexec
  cases hexec
  simpa using hanswers.response_unique (respond_responses _ s)

/-- Settles O22: `TOBYTES` delivers the quotient and the remainder of its Word by 256; the five values are computed. -/
theorem tobytesSplitsBigEndian : Obligations.TobytesSplitsBigEndian := by
  refine ⟨fun w s => ⟨_, hiByte w, loByte w, exec_tobytes w s, answers_respond _ s, buffersKept_respond _ s,
      toNat_hiByte w, toNat_loByte w⟩,
    fun w => decode_encode (.tobytes w), fun p hp s => ⟨_, exec_tobytes p.1 s, ?_⟩⟩
  have hvalue : hiByte p.1 = p.2.1 ∧ loByte p.1 = p.2.2 := by
    revert p
    exact List.forall_iff_forall_mem.1 (by decide)
  obtain ⟨hhi, hlo⟩ := hvalue
  rw [hhi, hlo]
  exact answers_respond _ s

/-- Settles O23: `FROMBYTES` delivers 256 times its first byte plus the second; the check of whichever byte is out of
range refuses the request. -/
theorem frombytesJoinsBigEndian : Obligations.FrombytesJoinsBigEndian := by
  refine ⟨fun hi lo s => ⟨_, joinBytes hi lo, exec_frombytes hi lo s, answers_respond _ s, buffersKept_respond _ s,
      toNat_joinBytes hi lo⟩,
    fun hi lo => decode_encode (.frombytes hi lo),
    fun s rest hi lo hout hr => step_of_decode_error hr (decode_bb_outside hout),
    fun s => ⟨_, exec_frombytes 0xFF 0x00 s, ?_⟩, fun s => ⟨_, exec_frombytes 0xBE 0xEF s, ?_⟩⟩
  · rw [show joinBytes 0xFF 0x00 = 65280#16 by decide]
    exact answers_respond _ s
  · rw [show joinBytes 0xBE 0xEF = 0xBEEF#16 by decide]
    exact answers_respond _ s

/-- Settles O24: `W2F` delivers 65536 times its first Word plus the second, from which both Words are read back; the
five values are computed. -/
theorem w2fFormsThePattern : Obligations.W2fFormsThePattern := by
  refine ⟨fun high low s => ⟨_, joinWords high low, exec_w2f high low s, answers_respond _ s, buffersKept_respond _ s,
      toNat_joinWords high low⟩,
    fun high low => decode_encode (.w2f high low),
    fun high low high' low' f s t t' hexec hanswers hexec' hanswers' => ?_,
    fun p hp s => ⟨_, exec_w2f p.1 p.2.1 s, ?_⟩⟩
  · exact joinWords_inj ((exec_w2f_answer hexec hanswers).symm.trans (exec_w2f_answer hexec' hanswers'))
  · have hvalue : joinWords p.1 p.2.1 = p.2.2 := by
      revert p
      exact List.forall_iff_forall_mem.1 (by decide)
    rw [hvalue]
    exact answers_respond _ s

end Machine

end Sys2Proof

/-! ## The Frame Builder (spec/42_frame_builder.md): an operand out of range ends `BUILD` with no byte of the frame -/

namespace Sys2Proof.Machine

/-- R76: an admitted `BUILD` with an operand outside [0, 65535] raises `INVALID_ARGUMENT` before any byte is stored. -/
theorem exec_build_outside {command : Int} {arguments : List Int} {s : State}
    (hwf : (Instr.build command arguments).wf s.params = true)
    (hout : ∃ v ∈ command :: arguments, ¬ (0 ≤ v ∧ v ≤ 65535)) :
    exec (.build command arguments) s = .next (raise .invalidArgument (.build []) s) := by
  rw [exec_build, execBuild, ifAdmitted_of_wf _ hwf, buildFrame, (buildWords_eq_none_iff _ _).2 hout]

/-- Settles O29: one bad operand is enough for the range check to raise, and a raise delivers its response and hands
the buffers over, as any delivery does. -/
theorem buildRejectsAnOperandOutOfRange : Obligations.BuildRejectsAnOperandOutOfRange := by
  rintro command arguments s hwf ⟨v, hv, hrange⟩
  have hout : ¬ (0 ≤ v ∧ v ≤ 65535) := by omega
  exact ⟨_, exec_build_outside hwf ⟨v, hv, hout⟩, answers_deliver _ s, buffersEmpty_deliver _ s⟩

end Sys2Proof.Machine

/-! ## The Frame Parser (spec/43_frame_parser.md): what `PARSE` answers in each of its branches, and what its `OK` means -/

namespace Sys2Proof.Machine

/-- R89: with the right length, every expected triplet is decoded. -/
theorem tripletCount_of_eq {len count : Nat} (h : len = 3 * count) : tripletCount len count = count :=
  if_neg (by simp [lengthMismatch, h])

/-- R89: with another length, the whole triplets present are decoded, up to the number expected. -/
theorem tripletCount_of_ne {len count : Nat} (h : len ≠ 3 * count) : tripletCount len count = min count (len / 3) :=
  if_pos (decide_eq_true h)

/-- R88: a length does not end the operation when it is right, nor under `LENIENT`. -/
theorem rejectsLength_eq_false {policy : LenPolicy} {len count : Nat} (h : len = 3 * count ∨ policy = .lenient) :
    rejectsLength policy len count = false := by
  refine Bool.eq_false_iff.2 fun hrej => ?_
  obtain ⟨hpol, hlen⟩ := (rejectsLength_cases policy len count).1 hrej
  exact h.elim hlen (by simp [hpol])

section
variable {raw : List Byte} {count : Nat} {s : State}

/-- R88, R89: the two cases in which triplets are decoded, with their number, are the model's `tripletCount` where the
length does not end the operation. -/
theorem tripletCount_eq_of_decoded {T : Nat}
    (h : (raw.length = 3 * count ∧ T = count) ∨
      (raw.length ≠ 3 * count ∧ s.params.lenPolicy = .lenient ∧ T = min count (raw.length / 3))) :
    (raw.length = 3 * count ∨ s.params.lenPolicy = .lenient) ∧ T = tripletCount raw.length count := by
  obtain ⟨hlen, rfl⟩ | ⟨hlen, hpol, rfl⟩ := h
  · exact ⟨.inl hlen, (tripletCount_of_eq hlen).symm⟩
  · exact ⟨.inr hpol, (tripletCount_of_ne hlen).symm⟩

/-- R86: an admitted `PARSE` of no Words answers before the frame or the policy is looked at. -/
theorem exec_parse_zero (hwf : (Instr.parse raw 0).wf s.params = true) :
    exec (.parse raw 0) s = .next (deliver ⟨.ok, .parse [] (some false) none⟩ s) := by
  rw [exec_parse, execParse, ifAdmitted_of_wf _ hwf, parseFrame, if_pos rfl]
  rfl

variable (hwf : (Instr.parse raw count).wf s.params = true) (h0 : count ≠ 0)
include hwf h0

/-- R88: under `STRICT` an admitted `PARSE` of a wrong length ends with `LENGTH_MISMATCH`. -/
theorem exec_parse_strict_mismatch (hpol : s.params.lenPolicy = .strict) (hlen : raw.length ≠ 3 * count) :
    exec (.parse raw count) s = .next (raise .lengthMismatch (.parse [] none none) s) := by
  have hrej : rejectsLength .strict raw.length count = true := decide_eq_true hlen
  rw [exec_parse, execParse, ifAdmitted_of_wf _ hwf]
  simp only [parseFrame, if_neg h0, openRaw_params, openRaw_raw, hpol, hrej]
  rfl

variable (h : raw.length = 3 * count ∨ s.params.lenPolicy = .lenient)
include h

/-- R85, R89: an admitted `PARSE` that its length does not end is the loop over the triplets to decode. -/
theorem exec_parse_decodes :
    exec (.parse raw count) s =
      parseTriplets (lengthMismatch raw.length count) (tripletCount raw.length count) (openRaw raw s) := by
  rw [exec_parse, execParse, ifAdmitted_of_wf _ hwf]
  simp only [parseFrame, if_neg h0, openRaw_params, openRaw_raw, rejectsLength_eq_false h]

/-- R90: such a `PARSE` ends at the first bad triplet with its index. -/
theorem exec_parse_first_bad {k : Nat} (hk : k < tripletCount raw.length count) (hv : ∀ j < k, TripletValid raw j)
    (hb : TripletBad raw k) :
    exec (.parse raw count) s = .next (raise .checksumMismatch (.parse [] none (some k)) s) := by
  rw [exec_parse_decodes hwf h0 h, parseTriplets_bad hk (by simpa using hv) (by simpa using hb), openRaw_idx,
    Nat.zero_add]
  rfl

/-- R91: such a `PARSE` whose triplets all verify delivers their Words. -/
theorem exec_parse_all_valid (hv : ∀ j < tripletCount raw.length count, TripletValid raw j) :
    ∃ ws : List Word, ws.length = tripletCount raw.length count ∧ WordsOf raw ws ∧
      exec (.parse raw count) s = .next (deliver ⟨.ok, .parse ws (some (decide (raw.length ≠ 3 * count))) none⟩ s) := by
  rw [exec_parse_decodes hwf h0 h]
  exact parseTriplets_openRaw_valid _ hv s

end

/-- Settles O33: under `STRICT` the length test ends the operation; under `LENIENT` the triplets to decode are all
valid, or one of them is the first bad one. -/
theorem lengthMismatchFollowsThePolicy : Obligations.LengthMismatchFollowsThePolicy := by
  intro raw count s hwf h0 hlen
  refine ⟨fun hpol => ⟨_, exec_parse_strict_mismatch hwf h0 hpol hlen, answers_deliver _ s, buffersEmpty_deliver _ s⟩,
    fun hpol => ?_⟩
  rw [← tripletCount_of_ne hlen]
  obtain hv | ⟨k, hk, hb, hv⟩ := all_valid_or_first_bad (tripletCount_le raw.length count)
  · obtain ⟨ws, hws, -, he⟩ := exec_parse_all_valid hwf h0 (.inr hpol) hv
    rw [decide_eq_true hlen] at he
    exact ⟨_, _, he, answers_deliver _ s, buffersEmpty_deliver _ s, .inl ⟨ws, hws, rfl⟩⟩
  · exact ⟨_, _, exec_parse_first_bad hwf h0 (.inr hpol) hk hv hb, answers_deliver _ s, buffersEmpty_deliver _ s,
      .inr ⟨k, hk, rfl⟩⟩

/-- Settles O34: the loop over the triplets to decode raises at the first bad one. -/
theorem firstBadTripletEndsTheParse : Obligations.FirstBadTripletEndsTheParse := by
  intro raw count T k s hwf h0 hdecoded hk hv hb
  obtain ⟨hlen, rfl⟩ := tripletCount_eq_of_decoded hdecoded
  exact ⟨_, exec_parse_first_bad hwf h0 hlen hk hv hb, answers_deliver _ s, buffersEmpty_deliver _ s⟩

/-- Settles O35: the loop over valid triplets delivers as many Words as triplets to decode, and a flagged frame of
fewer than three bytes has none. -/
theorem parseDeliversTheTripletsPresent : Obligations.ParseDeliversTheTripletsPresent := by
  intro raw count T s hwf h0 hdecoded hv
  obtain ⟨hlen, rfl⟩ := tripletCount_eq_of_decoded hdecoded
  obtain ⟨ws, hws, hwords, he⟩ := exec_parse_all_valid hwf h0 hlen hv
  refine ⟨_, ws, he, answers_deliver _ s, buffersEmpty_deliver _ s, hws, hwords, fun hne hshort => ?_⟩
  have hinside := tripletCount_le raw.length count
  exact List.length_eq_zero_iff.1 (by omega)

/-- Settles O36: of the branches of `PARSE` two answer `OK`, the one for no expected Word and the one whose triplets to
decode all verify. -/
theorem successfulParseMeansVerifiedWords : Obligations.SuccessfulParseMeansVerifiedWords := by
  intro raw count s t ws flag hexec hanswers
  rw [exec_parse] at hexec
  obtain ⟨why, -, he⟩ | ⟨-, ⟨rfl, he⟩ | ⟨-, -, -, he⟩ | ⟨-, -, k, -, -, -, he⟩ | ⟨-, hlen, hv, ws', hws, hwords, he⟩⟩ :=
    execParse_cases raw count s
  · cases he.symm.trans hexec
  all_goals
    cases he.symm.trans hexec
    cases hanswers.response_unique (deliver_responses _ s)
  · exact ⟨rfl, fun i hi => absurd hi (Nat.not_lt_zero i), fun i hi => absurd hi (Nat.not_lt_zero i), nofun⟩
  · refine ⟨hws, hwords, hws ▸ hv, fun hflag => ?_⟩
    have hne := of_decide_eq_true hflag
    exact ⟨hlen.resolve_left hne, hne⟩

/-- Settles O32: no expected Word is answered first, under either policy. -/
theorem parseOfNoWordsInspectsNothing : Obligations.ParseOfNoWordsInspectsNothing := by
  intro raw s hwf
  exact ⟨_, exec_parse_zero hwf, answers_deliver _ s, buffersEmpty_deliver _ s⟩

end Sys2Proof.Machine

/-! ## Exceptions (spec/60_exceptions.md): which operation answers with which status, and that no answer outlives it -/

namespace Sys2Proof.Machine

/-- Settles O40: the numbers are those of the table of R100. -/
theorem statusNumbers : Obligations.StatusNumbers := ⟨rfl, rfl, rfl, rfl⟩

/-- Settles O46: any operation keeps the parameters, and the next response is fixed by its own request and them. -/
theorem nothingIsSticky : Obligations.NothingIsSticky := by
  intro i j s t r hexec
  exact (responseDependsOnTheRequestAlone j t s (exec_next_params hexec)).1 r

/-- R6: what admission lets answer a next state was admitted. -/
theorem wf_of_ifAdmitted_next {i : Instr} {s t : State} {meaning : State → Result}
    (h : ifAdmitted i s meaning = .next t) : i.wf s.params = true := by
  by_contra hwf
  obtain ⟨why, hrefused⟩ := ifAdmitted_of_not_wf meaning hwf
  cases hrefused.symm.trans h

/-- R76, R110: an admitted `BUILD` delivers `INVALID_ARGUMENT` with no byte if an operand is out of range, else `OK`. -/
theorem exec_build_outcome {command : Int} {arguments : List Int} {s : State}
    (hwf : (Instr.build command arguments).wf s.params = true) :
    ∃ r, exec (.build command arguments) s = .next (deliver r s) ∧
      (((∃ v ∈ command :: arguments, v < 0 ∨ 65535 < v) ∧ r = ⟨.invalidArgument, .build []⟩) ∨
        ((¬ ∃ v ∈ command :: arguments, v < 0 ∨ 65535 < v) ∧ ∃ out, r = ⟨.ok, .build out⟩)) := by
  by_cases hout : ∃ v ∈ command :: arguments, v < 0 ∨ 65535 < v
  · obtain ⟨v, hv, hrange⟩ := hout
    exact ⟨_, exec_build_outside hwf ⟨v, hv, by omega⟩, .inl ⟨⟨v, hv, hrange⟩, rfl⟩⟩
  · have hin : ∀ v ∈ command :: arguments, 0 ≤ v ∧ v ≤ 65535 := fun v hv => by
      by_contra hrange
      exact hout ⟨v, hv, by omega⟩
    obtain ⟨c, ws, -, -, hexec⟩ := exec_build_in_range hwf hin
    exact ⟨_, hexec, .inr ⟨hout, _, rfl⟩⟩

/-- R89: the number of triplets to decode, written out. -/
theorem tripletCount_eq_ite (len count : Nat) :
    tripletCount len count = if len = 3 * count then count else min count (len / 3) := by
  split
  case isTrue h => exact tripletCount_of_eq h
  case isFalse h => exact tripletCount_of_ne h

/-- R88: there are two policies, so a `PARSE` that is not ended by its length has the right length or is `LENIENT`. -/
theorem not_strict_mismatch_iff (policy : LenPolicy) (len count : Nat) :
    ¬ (policy = .strict ∧ len ≠ 3 * count) ↔ len = 3 * count ∨ policy = .lenient := by
  cases policy <;> simp

/-- Settles O42: the conditions are tried in the rule's order; where neither no expected Word nor the length decides,
the triplets to decode are all valid or one of them is the first bad one. -/
theorem oneOutcomeByPriority : Obligations.OneOutcomeByPriority := by
  constructor
  · intro command arguments s hwf
    obtain ⟨r, hexec, ⟨hout, rfl⟩ | ⟨hin, out, rfl⟩⟩ := exec_build_outcome hwf
    · exact ⟨_, _, hexec, answers_deliver _ s, (if_pos hout).symm⟩
    · exact ⟨_, _, hexec, answers_deliver _ s, (if_neg hin).symm⟩
  · intro raw count T s hwf hT
    rw [← tripletCount_eq_ite] at hT
    subst hT
    by_cases h0 : count = 0
    · subst h0
      exact ⟨_, _, exec_parse_zero hwf, answers_deliver _ s, by rw [if_pos rfl]⟩
    simp only [if_neg h0]
    by_cases hrej : s.params.lenPolicy = .strict ∧ raw.length ≠ 3 * count
    · exact ⟨_, _, exec_parse_strict_mismatch hwf h0 hrej.1 hrej.2, answers_deliver _ s, by rw [if_pos hrej]⟩
    simp only [if_neg hrej]
    have hdecoded := (not_strict_mismatch_iff _ _ _).1 hrej
    obtain hv | ⟨k, hk, hb, hv⟩ := all_valid_or_first_bad (tripletCount_le raw.length count)
    · obtain ⟨ws, -, -, hexec⟩ := exec_parse_all_valid hwf h0 hdecoded hv
      exact ⟨_, _, hexec, answers_deliver _ s, .inr ⟨hv, ws, rfl⟩⟩
    · exact ⟨_, _, exec_parse_first_bad hwf h0 hdecoded hk hv hb, answers_deliver _ s, .inl ⟨k, hk, hb, hv, rfl⟩⟩

/-- Settles O41: a scalar operation delivers `OK`; an answered `BUILD` or `PARSE` took one of its branches, and each
branch settles every row of the table: its own condition excludes those of the others. -/
theorem faultTable : Obligations.FaultTable := by
  intro i s t hexec
  cases i with
  | crc8 | crcchk | tobytes | frombytes | w2f =>
    cases hexec
    exact ⟨_, answers_respond _ s, rfl, buffersKept_respond _ s⟩
  | build command arguments =>
    obtain ⟨r, hnext, houtcome⟩ := exec_build_outcome (wf_of_ifAdmitted_next hexec)
    cases hnext.symm.trans hexec
    refine ⟨r, answers_deliver r s, ?_⟩
    obtain ⟨hout, rfl⟩ | ⟨hin, out, rfl⟩ := houtcome
    · exact ⟨iff_of_true rfl hout, nofun, nofun, fun _ => rfl, buffersEmpty_deliver _ s⟩
    · exact ⟨iff_of_false nofun hin, nofun, nofun, nofun, buffersEmpty_deliver _ s⟩
  | parse raw count =>
    simp only [← tripletCount_eq_ite]
    rw [exec_parse] at hexec
    have hexcl := (not_strict_mismatch_iff s.params.lenPolicy raw.length count).2
    obtain ⟨why, -, he⟩ | ⟨-, ⟨h0, he⟩ | ⟨h0, hlen, hpol, he⟩ | ⟨h0, hdec, k, hk, hb, hv, he⟩ |
      ⟨h0, hdec, hv, ws, -, -, he⟩⟩ := execParse_cases raw count s
    · cases he.symm.trans hexec
    all_goals
      cases he.symm.trans hexec
      refine ⟨_, answers_deliver _ s, nofun, ?_⟩
    · -- no expected Word
      exact ⟨iff_of_false nofun fun ⟨_, hne, _⟩ => hne h0, nofun, iff_of_false nofun fun ⟨hne, _⟩ => hne h0, nofun,
        fun _ => ⟨[], by simp [h0]⟩, buffersEmpty_deliver _ s⟩
    · -- a wrong length under `STRICT`
      exact ⟨iff_of_true rfl ⟨hpol, h0, hlen⟩, fun _ => rfl,
        iff_of_false nofun fun ⟨_, hdec, _⟩ => hexcl hdec ⟨hpol, hlen⟩, nofun, nofun, buffersEmpty_deliver _ s⟩
    · -- a first bad triplet
      exact ⟨iff_of_false nofun fun ⟨hpol, _, hlen⟩ => hexcl hdec ⟨hpol, hlen⟩, nofun,
        iff_of_true rfl ⟨h0, hdec, k, hk, hb⟩, fun _ => ⟨k, rfl, hb, hv⟩, nofun, buffersEmpty_deliver _ s⟩
    · -- every triplet to decode is valid
      exact ⟨iff_of_false nofun fun ⟨hpol, _, hlen⟩ => hexcl hdec ⟨hpol, hlen⟩, nofun,
        iff_of_false nofun fun ⟨_, _, k, hk, hb⟩ => hb.not_valid (hv k hk), nofun,
        fun _ => ⟨ws, by simp [h0, lengthMismatch]⟩, buffersEmpty_deliver _ s⟩
  | reserved7 => cases hexec

end Sys2Proof.Machine

/-! ## Reset and hazards (spec/70_reset_and_hazards.md): reset leaves nothing behind that a response could show -/

namespace Sys2Proof.Machine

/-- R120: reset leaves the three buffers empty. -/
theorem buffersEmpty_reset : BuffersEmpty State.reset := ⟨rfl, rfl, rfl⟩

/-- Settles O1: reset is one of the states with its parameters, in all of which an operation has the same response. -/
theorem resetLeavesTheBlockIdle : Obligations.ResetLeavesTheBlockIdle := by
  refine ⟨rfl, rfl, buffersEmpty_reset, fun i s r hp => ?_⟩
  obtain ⟨hresponse, -⟩ := responseDependsOnTheRequestAlone i State.reset s hp.symm
  exact hresponse r

end Sys2Proof.Machine

/-! ## The machine between operations (spec/10_state.md, spec/60_exceptions.md): the invariant, the frames and the
answers of every operation -/

namespace Sys2Proof.Machine

/-- R41: the triplet the rule gives a Word is valid. -/
@[simp] theorem validTriplet_checksum (w : Word) : validTriplet (hiByte w) (loByte w) (checksum w) = true := by
  simp [validTriplet]

/-- R43: the inbound frame of any Words is whole valid triplets and nothing else. -/
theorem isInboundFrame_inboundFrame (ws : List Word) : isInboundFrame (inboundFrame ws) = true := by
  induction ws with
  | nil => rfl
  | cons w ws ih =>
    rw [show inboundFrame (w :: ws) = hiByte w :: loByte w :: checksum w :: inboundFrame ws from rfl, isInboundFrame,
      validTriplet_checksum, ih, Bool.and_self]

/-- R42: the outbound frame of any Words has the shape the rule gives. -/
theorem isOutboundFrame_outboundFrame (command : Word) (ws : List Word) :
    isOutboundFrame (outboundFrame command ws) = true := by
  rw [outboundFrame_eq_cons, isOutboundFrame, isInboundFrame_inboundFrame]

/-- R88: a length is flagged in an `OK` response only under `LENIENT`. -/
theorem lengthMismatch_flag_wf {policy : LenPolicy} {len count : Nat} (h : len = 3 * count ∨ policy = .lenient) :
    (!lengthMismatch len count || decide (policy = .lenient)) = true := by
  obtain hlen | hpol := h
  · simp [lengthMismatch, hlen]
  · simp [hpol]

/-- R38, R106: every operation that answers a next state delivers a response of an allowed shape, with or without a
hand-over of buffers. -/
theorem exec_next_shaped {i : Instr} {s t : State} (h : exec i s = .next t) :
    ∃ r, r.wf s.params = true ∧ (t = respond r s ∨ t = deliver r s) := by
  cases i with
  | crc8 word => cases h; exact ⟨⟨.ok, .crc8 (checksum word)⟩, rfl, .inl rfl⟩
  | crcchk word crcIn =>
    cases h; exact ⟨⟨.ok, .crcchk (matchFlag crcIn (checksum word)) (checksum word)⟩, rfl, .inl rfl⟩
  | tobytes word => cases h; exact ⟨_, rfl, .inl rfl⟩
  | frombytes hi lo => cases h; exact ⟨_, rfl, .inl rfl⟩
  | w2f high low => cases h; exact ⟨_, rfl, .inl rfl⟩
  | build command arguments =>
    rw [exec_build] at h
    obtain ⟨why, -, he⟩ | ⟨-, -, he⟩ | ⟨-, c, ws, -, -, he⟩ := execBuild_cases command arguments s <;>
      cases he.symm.trans h
    · exact ⟨_, rfl, .inr rfl⟩
    · refine ⟨_, ?_, .inr rfl⟩
      exact isOutboundFrame_outboundFrame c ws
  | parse raw count =>
    rw [exec_parse] at h
    obtain ⟨why, -, he⟩ | ⟨-, ⟨-, he⟩ | ⟨-, -, hpol, he⟩ | ⟨-, -, k, -, -, -, he⟩ | ⟨-, hdec, -, ws, -, -, he⟩⟩ :=
      execParse_cases raw count s <;>
      cases he.symm.trans h
    · exact ⟨_, rfl, .inr rfl⟩
    · refine ⟨_, ?_, .inr rfl⟩
      exact decide_eq_true hpol
    · exact ⟨_, rfl, .inr rfl⟩
    · refine ⟨_, ?_, .inr rfl⟩
      exact lengthMismatch_flag_wf hdec
  | reserved7 => cases h

section
variable {s t : State} {r : Response}

/-- The invariant says nothing of the host's requests. -/
theorem Inv.of_requests (h : Inv s) (rest : List Request) : Inv { s with requests := rest } :=
  ⟨⟨h.buffers.raw, h.buffers.out, h.buffers.words⟩, h.legal, h.shaped⟩

/-- An answer of an allowed shape that leaves the buffers empty keeps the invariant. -/
theorem Inv.of_answers (h : Inv s) (hans : Answers s t r) (hr : r.wf s.params = true) (hempty : BuffersEmpty t) :
    Inv t := by
  refine ⟨hempty, hans.params ▸ h.legal, ?_⟩
  rw [hans.params, hans.responses, List.forall_mem_append, List.forall_mem_singleton]
  exact ⟨h.shaped, hr⟩

/-- An operation that touches no buffer leaves empty ones empty. -/
theorem BuffersKept.buffersEmpty (hkept : BuffersKept s t) (h : BuffersEmpty s) : BuffersEmpty t :=
  ⟨hkept.raw.trans h.raw, hkept.out.trans h.out, hkept.words.trans h.words⟩

end

/-- Every operation keeps the invariant: a scalar one leaves the empty buffers alone, `BUILD` and `PARSE` hand theirs
over. -/
theorem exec_keeps_inv {i : Instr} {s t : State} (hinv : Inv s) (h : exec i s = .next t) : Inv t := by
  obtain ⟨r, hr, rfl | rfl⟩ := exec_next_shaped h
  · exact hinv.of_answers (answers_respond r s) hr ((buffersKept_respond r s).buffersEmpty hinv.buffers)
  · exact hinv.of_answers (answers_deliver r s) hr (buffersEmpty_deliver r s)

/-- Settles O4: a step is idle, or it is an operation taken from the host's list, and every operation delivers a
response of an allowed shape and leaves no buffer filled. -/
theorem stepKeepsTheInvariant : Obligations.StepKeepsTheInvariant := by
  intro s t hinv h
  obtain ⟨-, rfl⟩ | ⟨_, rest, i, -, -, hexec⟩ := step_next h
  · exact hinv
  · exact exec_keeps_inv (hinv.of_requests rest) hexec

/-- Settles O3: reset empties the buffers, takes R6's defaults, which are unbounded, and has delivered nothing. -/
theorem resetMeetsTheInvariant : Obligations.ResetMeetsTheInvariant :=
  ⟨buffersEmpty_reset, rfl, nofun⟩

/-- Settles O5: the next request decodes or it does not, and there may be none. -/
theorem stepRunsTheDecodedRequest : Obligations.StepRunsTheDecodedRequest := by
  refine ⟨fun _ _ _ _ => step_of_decode_ok, fun _ _ _ _ => step_of_decode_error, fun s hidle => ?_⟩
  simp only [step, takeRequest_nil hidle]

/-- Settles O43: the scalar rows of the fault table. -/
theorem scalarOperationsLeaveEverythingElse : Obligations.ScalarOperationsLeaveEverythingElse := by
  intro i s t hscalar hexec
  obtain ⟨r, hans, hrow⟩ := faultTable i s t hexec
  obtain ⟨w, rfl⟩ | ⟨w, c, rfl⟩ | ⟨w, rfl⟩ | ⟨hi, lo, rfl⟩ | ⟨high, low, rfl⟩ := hscalar <;>
    exact ⟨r, hans, hrow.2⟩

/-- Settles O44: the rows of `BUILD` and `PARSE` in the fault table. -/
theorem frameOperationsKeepNoCopy : Obligations.FrameOperationsKeepNoCopy := by
  intro i s t hframe hexec
  obtain ⟨r, hans, hrow⟩ := faultTable i s t hexec
  obtain ⟨command, arguments, rfl⟩ | ⟨raw, count, rfl⟩ := hframe
  · obtain ⟨-, -, -, -, hempty⟩ := hrow
    exact ⟨r, hans, hempty⟩
  · obtain ⟨-, -, -, -, -, -, hempty⟩ := hrow
    exact ⟨r, hans, hempty⟩

/-- Settles O47: every constructor but the reserved one answers once it is admitted. -/
theorem everyAdmittedOperationAnswers : Obligations.EveryAdmittedOperationAnswers :=
  fun _ _ hop hwf => exec_answers_of_wf hop hwf

end Sys2Proof.Machine

/-! ## Checksums and triplets (spec/40_checksum_engine.md section 4, spec/30_encoding.md section 2): the table, affinity,
detection and bijectivity -/

namespace Sys2Proof.Machine

/-- R57: the printed table holds the eight shift steps of each byte. -/
theorem crcTable_eq_crcByte : ∀ x : Byte, crcTable x = crcByte x := by decide +kernel

/-- R57: two look-ups in the printed table give the checksum. -/
theorem tableChecksum_eq (w : Word) : tableChecksum w = checksum w := by
  rw [tableChecksum, crcTable_eq_crcByte, crcTable_eq_crcByte, checksum_eq_crcByte]

/-- Settles O16: the 256 entries are computed, and the checksum is eight shift steps of each byte. -/
theorem tableFormGivesTheChecksum : Obligations.TableFormGivesTheChecksum :=
  ⟨crcTable_eq_crcByte, fun w s => ⟨_, exec_crc8 w s, tableChecksum_eq w ▸ answers_respond _ s⟩⟩

/-- R57: eight shift steps distribute over XOR. -/
theorem crcByte_xor (a b : Byte) : crcByte (a ^^^ b) = crcByte a ^^^ crcByte b := crcShifts_xor 8 a b

/-- The part of the checksum that is linear over XOR: the checksum with the register loaded with 0. -/
def crcLinear (w : Word) : Byte :=
  crcByte (crcByte (hiByte w) ^^^ loByte w)

/-- The linear part distributes over XOR. -/
theorem crcLinear_xor (a b : Word) : crcLinear (a ^^^ b) = crcLinear a ^^^ crcLinear b := by
  simp only [crcLinear, hiByte_xor, loByte_xor, crcByte_xor]
  ac_rfl

/-- R5, R55: loading 0xFF adds the constant 0x81 to the linear part. -/
theorem checksum_eq_crcLinear (w : Word) : checksum w = crcLinear w ^^^ 0x81#8 := by
  have hinit : crcByte (crcByte crcInit) = 0x81#8 := by decide +kernel
  calc checksum w = crcByte (crcByte crcInit ^^^ (crcByte (hiByte w) ^^^ loByte w)) := by
        rw [checksum_eq_crcByte, crcByte_xor crcInit, BitVec.xor_assoc]
    _ = crcByte (crcByte crcInit) ^^^ crcLinear w := crcByte_xor _ _
    _ = crcLinear w ^^^ 0x81#8 := by rw [hinit, BitVec.xor_comm]

/-- What a change of the Word does to its checksum does not depend on the Word. -/
theorem checksum_xor (w d : Word) : checksum (w ^^^ d) = checksum w ^^^ crcLinear d := by
  rw [checksum_eq_crcLinear, checksum_eq_crcLinear, crcLinear_xor]
  ac_rfl

/-- Settles O18: the linear part distributes, and of the three constants one remains. -/
theorem checksumIsAffineOverXor : Obligations.ChecksumIsAffineOverXor := by
  intro a b
  rw [checksum_xor, checksum_eq_crcLinear b, BitVec.xor_assoc, BitVec.xor_assoc, BitVec.xor_self, BitVec.xor_zero]

/-- What flipping the bits `e` of a triplet changes in the difference between its third byte and the checksum of its
Word. -/
def syndrome (e : BitVec 24) : Byte :=
  crcLinear (e.extractLsb' 8 16) ^^^ e.extractLsb' 0 8

/-- The syndrome distributes over XOR. -/
theorem syndrome_xor (d e : BitVec 24) : syndrome (d ^^^ e) = syndrome d ^^^ syndrome e := by
  simp only [syndrome, BitVec.extractLsb'_xor, crcLinear_xor]
  ac_rfl

/-- R41: flipped bits with a syndrome other than 0 make a valid triplet invalid. -/
theorem flips_invalidate_of_syndrome_ne_zero {e : BitVec 24} (h : syndrome e ≠ 0#8) (w : Word) :
    checksum (w ^^^ e.extractLsb' 8 16) ≠ checksum w ^^^ e.extractLsb' 0 8 := by
  rw [checksum_xor]
  intro heq
  exact h (BitVec.xor_eq_zero_iff.2 ((BitVec.xor_right_inj _).1 heq))

/-- The 24 single bits have 24 distinct syndromes, none of them 0. -/
theorem syndrome_twoPow : (∀ i < 24, syndrome (BitVec.twoPow 24 i) ≠ 0#8) ∧
    ∀ i < 24, ∀ j < 24, i ≠ j → syndrome (BitVec.twoPow 24 i) ≠ syndrome (BitVec.twoPow 24 j) := by
  decide +kernel

/-- Settles O19: one bit has a syndrome other than 0, and two bits have different ones, whose XOR is not 0. -/
theorem oneAndTwoBitFlipsInvalidateATriplet : Obligations.OneAndTwoBitFlipsInvalidateATriplet := by
  intro w e hflips
  obtain ⟨hone, htwo⟩ := syndrome_twoPow
  refine flips_invalidate_of_syndrome_ne_zero ?_ w
  obtain ⟨i, hi, rfl⟩ | ⟨i, hi, j, hj, hij, rfl⟩ := hflips
  · exact hone i hi
  · rw [syndrome_xor, ne_eq, BitVec.xor_eq_zero_iff]
    exact htwo i hi j hj hij

/-- R57: eight shift steps lose nothing: by linearity it is enough that 0 alone goes to 0. -/
theorem crcByte_injective : Function.Injective crcByte := by
  have hkernel : ∀ x : Byte, crcByte x = 0#8 → x = 0#8 := by decide +kernel
  intro a b h
  refine BitVec.xor_eq_zero_iff.1 (hkernel _ ?_)
  rw [crcByte_xor, h, BitVec.xor_self]

/-- R55: the checksum of two joined bytes. -/
theorem checksum_joinBytes (hi lo : Byte) :
    checksum (joinBytes hi lo) = crcByte (crcByte (crcInit ^^^ hi) ^^^ lo) := by
  rw [checksum_eq_crcByte, hiByte_joinBytes, loByte_joinBytes]

/-- With the more significant byte fixed, different Words have different checksums. -/
theorem eq_of_checksum_joinBytes_lo {hi lo lo' : Byte}
    (h : checksum (joinBytes hi lo) = checksum (joinBytes hi lo')) : lo = lo' := by
  rw [checksum_joinBytes, checksum_joinBytes] at h
  exact (BitVec.xor_right_inj _).1 (crcByte_injective h)

/-- With the less significant byte fixed, different Words have different checksums. -/
theorem eq_of_checksum_joinBytes_hi {hi hi' lo : Byte}
    (h : checksum (joinBytes hi lo) = checksum (joinBytes hi' lo)) : hi = hi' := by
  rw [checksum_joinBytes, checksum_joinBytes] at h
  exact (BitVec.xor_right_inj _).1 (crcByte_injective ((BitVec.xor_left_inj _).1 (crcByte_injective h)))

/-- There are `2^n` values of `n` bits. -/
theorem natCard_bitVec (n : Nat) : Nat.card (BitVec n) = 2 ^ n := by
  rw [Nat.card_congr BitVec.equivFin.toEquiv, Nat.card_fin]

/-- With the more significant byte fixed, the checksum is a bijection from the other: an injection between bytes. -/
theorem checksum_joinBytes_lo_bijective (hi : Byte) : Function.Bijective fun lo => checksum (joinBytes hi lo) :=
  Finite.injective_iff_bijective.1 fun _ _ => eq_of_checksum_joinBytes_lo

/-- With the less significant byte fixed, the checksum is a bijection from the other. -/
theorem checksum_joinBytes_hi_bijective (lo : Byte) : Function.Bijective fun hi => checksum (joinBytes hi lo) :=
  Finite.injective_iff_bijective.1 fun _ _ => eq_of_checksum_joinBytes_hi

/-- The Words of one checksum correspond to their more significant bytes: each has one less significant byte. -/
theorem hiByte_bijective_of_checksum (c : Byte) :
    Function.Bijective fun w : { w : Word // checksum w = c } => hiByte w.1 := by
  constructor
  · rintro ⟨w, hw⟩ ⟨w', hw'⟩ (hhi : hiByte w = hiByte w')
    rw [← joinBytes_hiByte_loByte w, hhi] at hw
    rw [← joinBytes_hiByte_loByte w'] at hw'
    have hlow : loByte w = loByte w' := eq_of_checksum_joinBytes_lo (hw.trans hw'.symm)
    rw [Subtype.mk.injEq, ← joinBytes_hiByte_loByte w, hhi, hlow, joinBytes_hiByte_loByte]
  · intro hi
    obtain ⟨lo, hlo⟩ := (checksum_joinBytes_lo_bijective hi).surjective c
    exact ⟨⟨joinBytes hi lo, hlo⟩, hiByte_joinBytes hi lo⟩

/-- Settles O20: as many Words have one checksum as there are more significant bytes, and either byte alone determines
the checksum one to one. -/
theorem checksumIsBalanced : Obligations.ChecksumIsBalanced := by
  refine ⟨fun c => ?_, checksum_joinBytes_lo_bijective, checksum_joinBytes_hi_bijective⟩
  rw [Nat.card_eq_of_bijective _ (hiByte_bijective_of_checksum c), natCard_bitVec]
  rfl

/-- R41: a triplet is valid exactly when it is the triplet of its Word. -/
theorem validTriplet_iff (msb lsb crc : Byte) :
    validTriplet msb lsb crc = true ↔ crc = checksum (joinBytes msb lsb) := decide_eq_true_iff

/-- R41: every Word has exactly one valid triplet. -/
theorem existsUnique_validTriplet (w : Word) :
    ∃! p : Byte × Byte × Byte, joinBytes p.1 p.2.1 = w ∧ validTriplet p.1 p.2.1 p.2.2 = true := by
  refine ⟨(hiByte w, loByte w, checksum w), ⟨joinBytes_hiByte_loByte w, validTriplet_checksum w⟩, ?_⟩
  rintro ⟨msb, lsb, crc⟩ ⟨rfl, hvalid⟩
  simpa using (validTriplet_iff _ _ _).1 hvalid

/-- R41: valid triplets correspond to their Words. -/
theorem validTriplet_word_bijective : Function.Bijective
    fun p : { p : Byte × Byte × Byte // validTriplet p.1 p.2.1 p.2.2 = true } => joinBytes p.1.1 p.1.2.1 := by
  refine (Function.bijective_iff_existsUnique _).2 fun w => ?_
  obtain ⟨p, ⟨hw, hvalid⟩, hunique⟩ := existsUnique_validTriplet w
  exact ⟨⟨p, hvalid⟩, hw, fun q hq => Subtype.ext (hunique q ⟨hq, q.2⟩)⟩

/-- Settles O21: the third byte has the value of the rule's checksum, and there are as many valid triplets as Words. -/
theorem everyWordHasOneValidTriplet : Obligations.EveryWordHasOneValidTriplet := by
  refine ⟨fun msb lsb crc => ?_, existsUnique_validTriplet, ?_⟩
  · rw [validTriplet_iff, ← toNat_joinBytes, ← toNat_checksum, BitVec.toNat_inj]
  · rw [Nat.card_eq_of_bijective _ validTriplet_word_bijective, natCard_bitVec]
    rfl

end Sys2Proof.Machine

/-! ## The checksum as a polynomial remainder (spec/40_checksum_engine.md section 1): bits as coefficients over the field
of two elements, and a shift step as a multiplication by `X` -/

namespace Sys2Proof.Machine

open Polynomial

/-- The polynomial whose coefficients are the bits. -/
noncomputable def bitPoly {n : Nat} (v : BitVec n) : (ZMod 2)[X] :=
  ∑ i ∈ Finset.range n, if v.getLsbD i then X ^ i else 0

/-- Over the field of two elements XOR is addition. -/
theorem bitPoly_xor {n : Nat} (a b : BitVec n) : bitPoly (a ^^^ b) = bitPoly a + bitPoly b := by
  rw [bitPoly, bitPoly, bitPoly, ← Finset.sum_add_distrib]
  refine Finset.sum_congr rfl fun i _ => ?_
  rw [BitVec.getLsbD_xor]
  cases a.getLsbD i <;> cases b.getLsbD i <;> simp [CharTwo.add_self_eq_zero]

/-- A single bit is a power of `X`. -/
theorem bitPoly_twoPow {n i : Nat} (h : i < n) : bitPoly (BitVec.twoPow n i) = X ^ i := by
  rw [bitPoly, Finset.sum_eq_single_of_mem i (Finset.mem_range.2 h)]
  · simp [h]
  · intro j _ hj
    simp [hj.symm]

/-- R5, R56: the bits of the constant of a shift step are the generator's lower terms. -/
theorem bitPoly_crcPoly : bitPoly crcPoly = X ^ 5 + X ^ 4 + 1 := by
  have hbits : crcPoly = BitVec.twoPow 8 5 ^^^ BitVec.twoPow 8 4 ^^^ BitVec.twoPow 8 0 := by decide
  rw [hbits, bitPoly_xor, bitPoly_xor, bitPoly_twoPow (by norm_num), bitPoly_twoPow (by norm_num),
    bitPoly_twoPow (by norm_num), pow_zero]

/-- A shift of the register is a multiplication by `X`, less the term of the bit shifted out. -/
theorem X_mul_bitPoly (b : Byte) :
    X * bitPoly b = bitPoly (b <<< 1) + if b.getLsbD 7 then X ^ 8 else 0 := by
  have hlow : (b <<< 1).getLsbD 0 = false := by simp
  have hnext : ∀ i ∈ Finset.range 7, (b <<< 1).getLsbD (i + 1) = b.getLsbD i := by
    intro i hi
    have := Finset.mem_range.1 hi
    rw [BitVec.getLsbD_shiftLeft]
    simp [show i + 1 < 8 by omega]
  rw [bitPoly, bitPoly, Finset.sum_range_succ _ 7, Finset.sum_range_succ' _ 7, hlow, if_neg Bool.false_ne_true,
    add_zero, mul_add, Finset.mul_sum]
  congr 1
  · refine Finset.sum_congr rfl fun i hi => ?_
    rw [hnext i hi, mul_ite, mul_zero, pow_succ']
  · rw [mul_ite, mul_zero, ← pow_succ']

/-- A Word is its more significant byte times `X^8` and its less significant byte. -/
theorem bitPoly_word (w : Word) : bitPoly w = X ^ 8 * bitPoly (hiByte w) + bitPoly (loByte w) := by
  have hhi : ∀ i ∈ Finset.range 8, (hiByte w).getLsbD i = w.getLsbD (8 + i) := by
    intro i hi
    simp [hiByte, Finset.mem_range.1 hi]
  have hlo : ∀ i ∈ Finset.range 8, (loByte w).getLsbD i = w.getLsbD i := by
    intro i hi
    simp [loByte, Finset.mem_range.1 hi]
  rw [bitPoly, Finset.sum_range_add _ 8 8, add_comm, bitPoly, bitPoly, Finset.mul_sum]
  congr 1
  · refine Finset.sum_congr rfl fun i hi => ?_
    rw [hhi i hi, mul_ite, mul_zero, pow_add]
  · refine Finset.sum_congr rfl fun i hi => ?_
    rw [hlo i hi]

/-- R5, R56: the generator x^8+x^5+x^4+1. -/
noncomputable def crcGenerator : (ZMod 2)[X] := X ^ 8 + X ^ 5 + X ^ 4 + 1

/-- The generator's lower terms are congruent to its leading one. -/
theorem crcGenerator_dvd : crcGenerator ∣ X ^ 8 - bitPoly crcPoly := by
  rw [CharTwo.sub_eq_add, bitPoly_crcPoly, ← add_assoc, ← add_assoc]
  exact dvd_rfl

/-- The residue modulo the generator of the polynomial of some bits. -/
noncomputable def crcResidue {n : Nat} (v : BitVec n) : AdjoinRoot crcGenerator :=
  AdjoinRoot.mk crcGenerator (bitPoly v)

/-- XOR is addition of residues. -/
theorem crcResidue_xor {n : Nat} (a b : BitVec n) : crcResidue (a ^^^ b) = crcResidue a + crcResidue b := by
  rw [crcResidue, bitPoly_xor, map_add]
  rfl

/-- R55, R56: a shift step multiplies the residue by `x`: the constant makes up for the term shifted out. -/
theorem crcResidue_crcShift (b : Byte) :
    crcResidue (crcShift b) = AdjoinRoot.root crcGenerator * crcResidue b := by
  have hlead : AdjoinRoot.mk crcGenerator (X ^ 8) = crcResidue crcPoly := AdjoinRoot.mk_eq_mk.2 crcGenerator_dvd
  rw [crcResidue.eq_def b, ← AdjoinRoot.mk_X, ← map_mul, X_mul_bitPoly, map_add, crcShift]
  cases b.getLsbD 7 with
  | true => rw [if_pos rfl, if_pos rfl, hlead, crcResidue_xor, crcResidue]
  | false => rw [if_neg Bool.false_ne_true, if_neg Bool.false_ne_true, map_zero, add_zero, crcResidue]

/-- R55: as many shift steps, as many multiplications by `x`. -/
theorem crcResidue_crcShifts (n : Nat) (b : Byte) :
    crcResidue (crcShifts n b) = AdjoinRoot.root crcGenerator ^ n * crcResidue b := by
  induction n generalizing b with
  | zero => rw [crcShifts, pow_zero, one_mul]
  | succ n ih => rw [crcShifts, ih, crcResidue_crcShift, pow_succ, mul_assoc]

/-- R57: eight shift steps multiply the residue by the eighth power of `x`. -/
theorem crcResidue_crcByte (b : Byte) :
    crcResidue (crcByte b) = AdjoinRoot.root crcGenerator ^ 8 * crcResidue b := crcResidue_crcShifts 8 b

/-- The residue of a Word by its bytes. -/
theorem crcResidue_word (w : Word) :
    crcResidue w = AdjoinRoot.root crcGenerator ^ 8 * crcResidue (hiByte w) + crcResidue (loByte w) := by
  rw [crcResidue, bitPoly_word, map_add, map_mul, map_pow, AdjoinRoot.mk_X]
  rfl

/-- R55: the checksum is congruent to the Word, its more significant byte complemented, times the eighth power of
`x`. -/
theorem crcResidue_checksum (w : Word) :
    crcResidue (checksum w) = AdjoinRoot.root crcGenerator ^ 8 * crcResidue (w ^^^ 0xFF00#16) := by
  have hhi : hiByte (w ^^^ 0xFF00#16) = crcInit ^^^ hiByte w := by
    rw [hiByte_xor, BitVec.xor_comm]
    rfl
  have hlo : loByte (w ^^^ 0xFF00#16) = loByte w := by
    rw [loByte_xor]
    exact BitVec.xor_zero
  rw [checksum_eq_crcByte, crcResidue_crcByte, crcResidue_xor, crcResidue_crcByte, crcResidue_word, hhi, hlo]

/-- Settles O17: equal residues are polynomials that differ by a multiple of the generator. -/
theorem checksumIsThePolynomialRemainder : Obligations.ChecksumIsThePolynomialRemainder := by
  intro w s
  refine ⟨_, checksum w, exec_crc8 w s, answers_respond _ s, ?_⟩
  have hresidue : AdjoinRoot.mk crcGenerator (bitPoly (w ^^^ 0xFF00#16) * X ^ 8) =
      AdjoinRoot.mk crcGenerator (bitPoly (checksum w)) := by
    rw [map_mul, map_pow, AdjoinRoot.mk_X, mul_comm]
    exact (crcResidue_checksum w).symm
  obtain ⟨q, hq⟩ := AdjoinRoot.mk_eq_mk.1 hresidue
  refine ⟨q, ?_⟩
  rw [mul_comm q]
  exact eq_add_of_sub_eq hq

end Sys2Proof.Machine

/-! ## Word Codec and frames (spec/41_word_codec.md, spec/42_frame_builder.md, spec/43_frame_parser.md): round trips, the
places of a float's bytes, and detection of a flipped bit -/

namespace Sys2Proof.Machine

/-- Settles O25: a Word's two bytes join to the Word, and joined bytes split into themselves. -/
theorem splitAndJoinAreInverse : Obligations.SplitAndJoinAreInverse := by
  refine ⟨fun w s => ⟨_, _, hiByte w, loByte w, exec_tobytes w s, answers_respond _ s, exec_frombytes _ _ _, ?_⟩,
    fun hi lo s => ⟨_, _, joinBytes hi lo, exec_frombytes hi lo s, answers_respond _ s, exec_tobytes _ _, ?_⟩⟩
  · rw [joinBytes_hiByte_loByte]
    exact answers_respond _ _
  · rw [hiByte_joinBytes, loByte_joinBytes]
    exact answers_respond _ _

/-- R69, R71: a pattern is its two Words joined. -/
theorem joinWords_patternWords (f : Pattern32) : joinWords (patternWords f).1 (patternWords f).2 = f := by
  have hf := f.isLt
  refine BitVec.eq_of_toNat_eq ?_
  rw [toNat_joinWords, patternWords, BitVec.extractLsb'_toNat, BitVec.extractLsb'_toNat, Nat.shiftRight_eq_div_pow,
    Nat.shiftRight_zero]
  omega

/-- R69, R71: joined Words are the two Words of their pattern. -/
theorem patternWords_joinWords (high low : Word) : patternWords (joinWords high low) = (high, low) := by
  obtain ⟨hhigh, hlow⟩ := joinWords_inj (joinWords_patternWords (joinWords high low))
  exact Prod.ext hhigh hlow

/-- Settles O26: `W2F` joins, and joining and the helper are inverse. -/
theorem patternWordsInvertsW2f : Obligations.PatternWordsInvertsW2f := by
  refine ⟨fun f s => ⟨_, exec_w2f _ _ s, ?_⟩,
    fun high low s => ⟨_, _, exec_w2f high low s, answers_respond _ s, patternWords_joinWords high low⟩⟩
  rw [joinWords_patternWords]
  exact answers_respond _ s

/-- R44: the value of the exponent field. -/
theorem toNat_f32Exponent (f : Pattern32) : (f32Exponent f).toNat = f.toNat / 2 ^ 23 % 256 := by
  rw [f32Exponent, BitVec.extractLsb'_toNat, Nat.shiftRight_eq_div_pow]

/-- R44: the value of the fraction field. -/
theorem toNat_f32Fraction (f : Pattern32) : (f32Fraction f).toNat = f.toNat % 2 ^ 23 := by
  rw [f32Fraction, BitVec.extractLsb'_toNat, Nat.shiftRight_zero]

/-- R70: a number with the leading bit written out, scaled by the exponent less bias and fraction width. -/
theorem normal_scale (e m : Nat) : ((2 ^ 23 + m : Nat) : ℚ) * 2 ^ ((e : Int) - 150) =
    2 ^ ((e : Int) - 127) * (1 + (m : ℚ) / 2 ^ 23) := by
  rw [show (e : Int) - 127 = (e : Int) - 150 + 23 by ring, zpow_add₀ two_ne_zero]
  push_cast
  norm_num
  ring

/-- R70: a number without a leading bit, scaled by the least exponent less the fraction width. -/
theorem subnormal_scale (m : Nat) : (m : ℚ) * 2 ^ (-149 : Int) = 2 ^ (-126 : Int) * ((m : ℚ) / 2 ^ 23) := by
  rw [show (-126 : Int) = -149 + 23 by norm_num, zpow_add₀ two_ne_zero]
  norm_num
  ring

/-- Settles O27: the fields have the values of the rule, and by the exponent the reading is a normal number, a
subnormal one or zero, an infinity or a NaN. -/
theorem patternReadsAsBinary32 : Obligations.PatternReadsAsBinary32 := by
  intro f e m he hm
  rw [← toNat_f32Exponent] at he
  rw [← toNat_f32Fraction] at hm
  unfold readBinary32
  simp only [← he, ← hm]
  refine ⟨fun ⟨hmin, hmax⟩ => ?_, fun hzero => ?_, fun ⟨htop, hm0⟩ => ?_, fun ⟨htop, hm0⟩ => ?_⟩
  · rw [if_neg (by omega), if_neg (by omega), Reading.value, f32Sign, mul_assoc, normal_scale, mul_assoc]
  · rw [if_neg (by omega), if_pos hzero, Reading.value, f32Sign, mul_assoc, subnormal_scale, mul_assoc]
  · rw [if_pos htop, if_pos hm0, f32Sign]
  · rw [if_pos htop, if_neg hm0]

/-- R43: a Word of a sequence stands in its inbound frame as its two bytes, joined. -/
theorem wordsOf_inboundFrame (ws : List Word) : WordsOf (inboundFrame ws) ws := by
  intro i hi
  have hget := List.getElem?_eq_getElem hi
  obtain ⟨hmsb, hlsb, -⟩ := inboundFrame_get hget
  exact ⟨_, _, hmsb, hlsb, by rw [joinBytes_hiByte_loByte, hget]⟩

/-- R41, R43: every triplet of an inbound frame is valid. -/
theorem tripletValid_inboundFrame {ws : List Word} {i : Nat} (hi : i < ws.length) :
    TripletValid (inboundFrame ws) i := by
  obtain ⟨hmsb, hlsb, hcrc⟩ := inboundFrame_get (List.getElem?_eq_getElem hi)
  exact ⟨_, _, _, hmsb, hlsb, hcrc, by rw [joinBytes_hiByte_loByte]⟩

/-- R86, R91: an admitted `PARSE` of a frame of the right length whose triplets all verify delivers its Words,
unflagged. -/
theorem exec_parse_whole {raw : List Byte} {count : Nat} {s : State}
    (hwf : (Instr.parse raw count).wf s.params = true) (hlen : raw.length = 3 * count)
    (hv : ∀ i < count, TripletValid raw i) :
    ∃ ws : List Word, ws.length = count ∧ WordsOf raw ws ∧
      exec (.parse raw count) s = .next (deliver ⟨.ok, .parse ws (some false) none⟩ s) := by
  by_cases h0 : count = 0
  · subst h0
    exact ⟨[], rfl, nofun, exec_parse_zero hwf⟩
  · rw [← tripletCount_of_eq hlen] at hv
    obtain ⟨ws, hws, hwords, hexec⟩ := exec_parse_all_valid hwf h0 (.inl hlen) hv
    rw [tripletCount_of_eq hlen] at hws
    rw [decide_eq_false (not_not.2 hlen)] at hexec
    exact ⟨ws, hws, hwords, hexec⟩

/-- R43, R91: an admitted `PARSE` of the inbound frame of some Words delivers those Words. -/
theorem exec_parse_inboundFrame {ws : List Word} {s : State}
    (hwf : (Instr.parse (inboundFrame ws) ws.length).wf s.params = true) :
    exec (.parse (inboundFrame ws) ws.length) s = .next (deliver ⟨.ok, .parse ws (some false) none⟩ s) := by
  obtain ⟨ws', hlen, hwords, hexec⟩ :=
    exec_parse_whole hwf (inboundFrame_length ws) fun _ => tripletValid_inboundFrame
  rw [hexec, hwords.unique (wordsOf_inboundFrame ws) hlen]

/-- Settles O31: `BUILD` answers with the command's bytes before the inbound frame of the arguments, and `PARSE` of that
frame, which the kept parameters admit, delivers them. -/
theorem parseReadsBackWhatBuildMade : Obligations.ParseReadsBackWhatBuildMade := by
  intro command args s hwf hraw hwords
  have hdrop : (outboundFrame command args).drop 2 = inboundFrame args := rfl
  refine ⟨_, _, outboundFrame command args, exec_build_words hwf, answers_deliver _ s, hdrop, ?_, answers_deliver _ _⟩
  rw [hdrop]
  refine exec_parse_inboundFrame ((Instr.wf_parse_iff _ _ _).2 ⟨?_, hwords⟩)
  rwa [inboundFrame_length]

section
variable {raw : List Byte} {i p k : Nat}

/-- A flip leaves the number of bytes. -/
@[simp] theorem flipBit_length : (flipBit raw p k).length = raw.length := List.length_modify _ _ _

/-- A flip changes no other byte. -/
theorem flipBit_get_other (h : i ≠ p) : (flipBit raw p k)[i]? = raw[i]? := by
  rw [flipBit, List.getElem?_modify_ne _ _ (Ne.symm h)]

/-- A flip changes the byte it is in. -/
theorem flipBit_get_same {b : Byte} (hk : k < 8) (h : raw[p]? = some b) :
    ∃ b', (flipBit raw p k)[p]? = some b' ∧ b' ≠ b := by
  refine ⟨b ^^^ BitVec.twoPow 8 k, ?_, fun heq => ?_⟩
  · rw [flipBit, List.getElem?_modify_eq, h]
    rfl
  · have hbit := congrArg (·.getLsbD k) heq
    simp [hk] at hbit

/-- A flip before or after a triplet leaves it valid. -/
theorem TripletValid.flipBit_other (h : TripletValid raw i) (hp : p / 3 ≠ i) : TripletValid (flipBit raw p k) i := by
  obtain ⟨msb, lsb, crc, h0, h1, h2, hcrc⟩ := h
  refine ⟨msb, lsb, crc, ?_, ?_, ?_, hcrc⟩
  · rwa [flipBit_get_other (by omega)]
  · rwa [flipBit_get_other (by omega)]
  · rwa [flipBit_get_other (by omega)]

/-- A flip in a valid triplet makes it bad: its checksum byte no longer fits its Word, or its Word has another
checksum. -/
theorem TripletValid.flipBit_same (h : TripletValid raw (p / 3)) (hk : k < 8) : TripletBad (flipBit raw p k) (p / 3) := by
  obtain ⟨msb, lsb, crc, h0, h1, h2, rfl⟩ := h
  obtain hp | hp | hp : p = 3 * (p / 3) ∨ p = 3 * (p / 3) + 1 ∨ p = 3 * (p / 3) + 2 := by omega
  · rw [← hp] at h0
    obtain ⟨msb', h0', hne⟩ := flipBit_get_same hk h0
    refine ⟨msb', lsb, _, hp ▸ h0', (flipBit_get_other (by omega)).trans h1, (flipBit_get_other (by omega)).trans h2, ?_⟩
    exact fun heq => hne (eq_of_checksum_joinBytes_hi heq).symm
  · rw [← hp] at h1
    obtain ⟨lsb', h1', hne⟩ := flipBit_get_same hk h1
    refine ⟨msb, lsb', _, (flipBit_get_other (by omega)).trans h0, hp ▸ h1', (flipBit_get_other (by omega)).trans h2, ?_⟩
    exact fun heq => hne (eq_of_checksum_joinBytes_lo heq).symm
  · rw [← hp] at h2
    obtain ⟨crc', h2', hne⟩ := flipBit_get_same hk h2
    exact ⟨msb, lsb, crc', (flipBit_get_other (by omega)).trans h0, (flipBit_get_other (by omega)).trans h1, hp ▸ h2', hne⟩

end

/-- Settles O38: the flip leaves the frame's length, so it is admitted and decoded too; the triplets before the flipped
byte stay valid and the one it is in becomes bad. -/
theorem singleBitFlipOfAFrameIsDetected : Obligations.SingleBitFlipOfAFrameIsDetected := by
  intro raw count p k s hwf hcount hlen hv hp hk
  obtain ⟨ws, -, -, hexec⟩ := exec_parse_whole hwf hlen hv
  refine ⟨⟨_, ws, hexec, answers_deliver _ s⟩, ?_⟩
  have hlen' : (flipBit raw p k).length = 3 * count := flipBit_length.trans hlen
  have hwf' : (Instr.parse (flipBit raw p k) count).wf s.params = true := by
    rw [Instr.wf_parse_iff] at hwf ⊢
    rwa [flipBit_length]
  refine ⟨_, exec_parse_first_bad hwf' (by omega) (.inl hlen') ?_ (fun j hj => ?_) ?_, answers_deliver _ s⟩
  · rw [tripletCount_of_eq hlen']
    omega
  · exact (hv j (by omega)).flipBit_other (by omega)
  · exact (hv _ (by omega)).flipBit_same hk

/-- R69: the four bytes of a pattern are those of its two Words, the most significant first. -/
theorem joinWords_bytes (high low : Word) :
    (joinWords high low).extractLsb' 24 8 = hiByte high ∧ (joinWords high low).extractLsb' 16 8 = loByte high ∧
      (joinWords high low).extractLsb' 8 8 = hiByte low ∧ (joinWords high low).extractLsb' 0 8 = loByte low := by
  have hbyte {k : Nat} {b : Byte} (h : (high.toNat * 65536 + low.toNat) / 2 ^ k % 2 ^ 8 = b.toNat) :
      (joinWords high low).extractLsb' k 8 = b := by
    refine BitVec.eq_of_toNat_eq ?_
    rw [BitVec.extractLsb'_toNat, toNat_joinWords, Nat.shiftRight_eq_div_pow, h]
  have hhigh := high.isLt
  have hlow := low.isLt
  refine ⟨hbyte ?_, hbyte ?_, hbyte ?_, hbyte ?_⟩ <;> simp only [toNat_hiByte, toNat_loByte] <;> omega

/-- R91: each Word of a successful `PARSE` stands in the frame as its two bytes and its checksum. -/
theorem parse_word_bytes {raw : List Byte} {count i : Nat} {s t : State} {ws : List Word} {flag : Bool} {w : Word}
    (hexec : exec (.parse raw count) s = .next t) (hans : Answers s t ⟨.ok, .parse ws (some flag) none⟩)
    (hw : ws[i]? = some w) :
    raw[3 * i]? = some (hiByte w) ∧ raw[3 * i + 1]? = some (loByte w) ∧ raw[3 * i + 2]? = some (checksum w) := by
  obtain ⟨-, hwords, hvalid, -⟩ := successfulParseMeansVerifiedWords raw count s t ws flag hexec hans
  have hi := (List.getElem?_eq_some_iff.1 hw).1
  obtain ⟨m, l, hm, hl, hjoin⟩ := hwords i hi
  obtain ⟨m', l', c, hm', hl', hc, rfl⟩ := hvalid i hi
  obtain rfl : m = m' := by simpa [hm] using hm'
  obtain rfl : l = l' := by simpa [hl] using hl'
  obtain rfl : w = joinBytes m l := by simpa [hw] using hjoin
  rw [hiByte_joinBytes, loByte_joinBytes]
  exact ⟨hm, hl, hc⟩

/-- Settles O39: the two Words stand in triplets `2j` and `2j+1` of the frame, and the pattern's bytes are theirs. -/
theorem floatBytesStandAtTheirOffsets : Obligations.FloatBytesStandAtTheirOffsets := by
  intro raw count j s t ws flag high low hexec hans hhigh hlow
  obtain ⟨h0, h1, h2⟩ := parse_word_bytes hexec hans hhigh
  obtain ⟨h3, h4, h5⟩ := parse_word_bytes hexec hans hlow
  obtain ⟨hb3, hb2, hb1, hb0⟩ := joinWords_bytes high low
  refine ⟨_, joinWords high low, exec_w2f high low t, answers_respond _ t, ?_⟩
  rw [hb3, hb2, hb1, hb0]
  simp only [show 3 * (2 * j) = 6 * j by omega] at h0 h1 h2
  simp only [show 3 * (2 * j + 1) = 6 * j + 3 by omega] at h3 h4 h5
  exact ⟨h0, h1, h3, h4, h2, h5⟩

end Sys2Proof.Machine
